-- ==== Sys2Proof/Word.lean ====
section
/-! DEFINITION. The words of the PoS-ChaCha20 core: bytes, 32-bit words, 40-bit command words, RD addresses, and the
fixed-size arrays the spec numbers (key, nonce, block state). All unsigned (R11). -/

namespace Sys2Proof

/-- A byte: 8 bits (R11). -/
abbrev Byte := BitVec 8

/-- A word: 32 bits (R11; `WORD_BITS` of R7). -/
abbrev Word := BitVec 32

/-- A command word of the CMD port: 40 bits (R100). -/
abbrev CmdWord := BitVec 40

/-- An address of the RD port: 16 bits (R50). -/
abbrev RdAddr := BitVec 16

/-- The key buffer KEYB: 32 bytes (R22; `KEY_BYTES` of R7). -/
abbrev Key := Vector Byte 32

/-- A 12-byte nonce: NONB or WN (R23, R27; `NONCE_BYTES` of R7). -/
abbrev Nonce := Vector Byte 12

/-- Sixteen 32-bit words: S, X, or the output of BLOCK (R24, R140; `STATE_WORDS` of R7). -/
abbrev Block := Vector Word 16

end Sys2Proof
end

