-- ==== Sys2Proof/Syntax.lean ====
section
/-! DEFINITION. The PCC command set, version 1 (R3, R103): one constructor per row of spec/opcode_table.json. -/

namespace Sys2Proof

/-- The 13 commands of R103. A byte-class command carries its byte, a word-class command its word, a none-class command
nothing (R101): the must-be-zero bits of the encoding are checked by the decoder and are no part of the instruction. -/
inductive Instr where
  /-- NOP, op 0x00 (R240). -/
  | nop
  /-- KCLR, op 0x01 (R241). -/
  | kclr
  /-- KPUSH b, op 0x02 (R242). -/
  | kpush (b : Byte)
  /-- NCLR, op 0x03 (R243). -/
  | nclr
  /-- NPUSH b, op 0x04 (R244). -/
  | npush (b : Byte)
  /-- LENLO v, op 0x05 (R245). -/
  | lenlo (v : Word)
  /-- LENHI v, op 0x06 (R246). -/
  | lenhi (v : Word)
  /-- SETCNT v, op 0x07 (R247). -/
  | setcnt (v : Word)
  /-- SETMOD v, op 0x08 (R248). -/
  | setmod (v : Word)
  /-- GENBITS, op 0x10 (R160). -/
  | genbits
  /-- GENWORDS, op 0x11 (R162). -/
  | genwords
  /-- DRAW, op 0x12 (R218). -/
  | draw
  /-- SRST, op 0x1F (R249). -/
  | srst
deriving DecidableEq, Repr

end Sys2Proof
end

