-- ==== Sys2Proof/WellFormed.lean ====
section
/-! DEFINITION. Which 40-bit command words are well formed (R100, R101, R103, R104). An `Instr` is well formed by its
types alone (a byte operand is 8 bits wide), so the checks are those the spec makes on the WORD: the opcode is assigned,
and the must-be-zero bits of its class are zero. They are written over the number `op * 2^32 + imm` of R100, apart from the
decoder's own reading of the bits, so that the two can be held against each other. -/

namespace Sys2Proof

/-- The immediate classes of R101. -/
inductive ImmClass where
  /-- `imm` must be 0. -/
  | none
  /-- `imm[7:0]` is the byte; `imm[31:8]` must be zero. -/
  | byte
  /-- all 32 bits are the value. -/
  | word
deriving DecidableEq, Repr

/-- The class of an opcode (R101, R103); nothing for an unassigned opcode. -/
def immClass? (op : Nat) : Option ImmClass :=
  match op with
  | 0x00 | 0x01 | 0x03 | 0x10 | 0x11 | 0x12 | 0x1F => some .none
  | 0x02 | 0x04 => some .byte
  | 0x05 | 0x06 | 0x07 | 0x08 => some .word
  | _ => .none

/-- The opcode of a command word as R100 writes it: the word is `op * 2^32 + imm`. -/
def opNumber (w : CmdWord) : Nat := w.toNat / 4294967296

/-- The immediate of a command word as R100 writes it. -/
def immNumber (w : CmdWord) : Nat := w.toNat % 4294967296

/-- Check 1 of R104: the opcode is one of the thirteen. -/
def opcodeAssigned (w : CmdWord) : Bool := (immClass? (opNumber w)).isSome

/-- Check 2 of R104: a command of class none has a zero immediate. -/
def noneImmZero (w : CmdWord) : Bool := immClass? (opNumber w) != some .none || immNumber w == 0

/-- Check 3 of R104: a command of class byte has `imm[31:8]` zero. -/
def byteImmZero (w : CmdWord) : Bool := immClass? (opNumber w) != some .byte || immNumber w < 256

/-- A well-formed command word: every other word is an illegal command (R104). -/
def WellFormed (w : CmdWord) : Bool := opcodeAssigned w && noneImmZero w && byteImmZero w

end Sys2Proof
end

