-- ==== Sys2Proof/Decode.lean ====
section
/-! DEFINITION. The decoder (R100, R101, R103, R104): total on every 40-bit word, rejecting by name; and after it the
encoder, from the same tables. -/

namespace Sys2Proof

/-- `op`, bits 39:32 of a command word (R100). -/
def opField (w : CmdWord) : Byte := w.extractLsb' 32 8

/-- `imm`, bits 31:0 of a command word (R100). -/
def immField (w : CmdWord) : Word := w.extractLsb' 0 32

/-- `imm[7:0]`, the operand of a byte-class command (R101). -/
def immByte (imm : Word) : Byte := imm.extractLsb' 0 8

/-- `imm[31:8]`, which must be zero in a byte-class command (R101). -/
def immUpper (imm : Word) : BitVec 24 := imm.extractLsb' 8 24

/-- Why a word is an illegal command (R104). Safe: an illegal command is no fault, it takes the IllegalCommand effect. -/
inductive DecodeError where
  /-- The opcode is in 0x09..0x0F, 0x13..0x1E or 0x20..0xFF (R104). -/
  | unassignedOpcode (op : Byte)
  /-- The opcode is of class none or byte and its must-be-zero bits are not zero (R101, R104). -/
  | immediateNotZero (op : Byte) (imm : Word)
deriving DecidableEq, Repr

/-- A command of class none (R101). -/
def decodeNone (i : Instr) (op : Byte) (imm : Word) : Except DecodeError Instr :=
  if imm = 0#32 then .ok i else .error (.immediateNotZero op imm)

/-- A command of class byte (R101). -/
def decodeByte (f : Byte → Instr) (op : Byte) (imm : Word) : Except DecodeError Instr :=
  if immUpper imm = 0#24 then .ok (f (immByte imm)) else .error (.immediateNotZero op imm)

/-- The decoder, by the opcode map of R103. -/
def decode (w : CmdWord) : Except DecodeError Instr :=
  match (opField w).toNat with
  | 0x00 => decodeNone .nop (opField w) (immField w)
  | 0x01 => decodeNone .kclr (opField w) (immField w)
  | 0x02 => decodeByte .kpush (opField w) (immField w)
  | 0x03 => decodeNone .nclr (opField w) (immField w)
  | 0x04 => decodeByte .npush (opField w) (immField w)
  | 0x05 => .ok (.lenlo (immField w))
  | 0x06 => .ok (.lenhi (immField w))
  | 0x07 => .ok (.setcnt (immField w))
  | 0x08 => .ok (.setmod (immField w))
  | 0x10 => decodeNone .genbits (opField w) (immField w)
  | 0x11 => decodeNone .genwords (opField w) (immField w)
  | 0x12 => decodeNone .draw (opField w) (immField w)
  | 0x1F => decodeNone .srst (opField w) (immField w)
  | _ => .error (.unassignedOpcode (opField w))

/-- A command word from its two fields (R100). -/
def packFields (op : Byte) (imm : Word) : CmdWord := op ++ imm

/-- The opcode of each command (R103). -/
def opcodeOf : Instr → Byte
  | .nop => 0x00#8
  | .kclr => 0x01#8
  | .kpush _ => 0x02#8
  | .nclr => 0x03#8
  | .npush _ => 0x04#8
  | .lenlo _ => 0x05#8
  | .lenhi _ => 0x06#8
  | .setcnt _ => 0x07#8
  | .setmod _ => 0x08#8
  | .genbits => 0x10#8
  | .genwords => 0x11#8
  | .draw => 0x12#8
  | .srst => 0x1F#8

/-- The immediate of each command (R101). -/
def immediateOf : Instr → Word
  | .kpush b => b.zeroExtend 32
  | .npush b => b.zeroExtend 32
  | .lenlo v => v
  | .lenhi v => v
  | .setcnt v => v
  | .setmod v => v
  | .nop | .kclr | .nclr | .genbits | .genwords | .draw | .srst => 0#32

/-- The encoder: the command word of an instruction (R100, R101, R103). -/
def encode (i : Instr) : CmdWord := packFields (opcodeOf i) (immediateOf i)

/-- The command word whose bits are `w`, of which the table gives `nbits` (log entry 14): the word is transferred in one
piece (R100), so bit 0 is its least significant bit, and bits above `nbits` are zero. -/
def tableWord (nbits w : Nat) : CmdWord := BitVec.ofNat 40 (w % 2 ^ nbits)

/-- The instruction the decoder reads from an instruction whose bits are `w` (log entry 14); none where it refuses, and
none where the bits do not fit the 40-bit command word. -/
def decodeTableWord (nbits w : Nat) : Option Instr :=
  if w % 2 ^ nbits < 2 ^ 40 then
    match decode (tableWord nbits w) with
    | .ok i => some i
    | .error _ => none
  else none

end Sys2Proof
end

