-- ==== Sys2Proof/Config.lean ====
section
/-! DEFINITION. What an implementation fixes (the configuration record of R8) and the free values that stand where the
spec says `unspecified` (R15). -/

namespace Sys2Proof

/-- `MASK_KEEP` (R8, R159): which bits of the final partial byte a bit-granular request keeps. OPEN in the source. -/
inductive MaskKeep where
  | low
  | high
deriving DecidableEq, Repr

/-- `SUFFIX_ORDER` (R8, R181): the byte order in which the pool suffix meets nonce bytes 8..11. -/
inductive SuffixOrder where
  | little
  | big
deriving DecidableEq, Repr

/-- The configuration record of R8, with its legal ranges as part of the data, so that a configuration outside them
cannot be built. `LEN_BITS` is fixed at 64 by R8 and is the width of LEN. -/
structure Config where
  /-- `POOL_CAP`: capacity of the Keystream Pool in words. -/
  poolCap : Nat
  /-- `SEEN_CAP`: entries of the Seen-set and of the Result memory; the largest legal modulus. -/
  seenCap : Nat
  /-- `MASK_KEEP`. -/
  maskKeep : MaskKeep
  /-- `SUFFIX_ORDER`. -/
  suffixOrder : SuffixOrder
  poolCap_pos : 1 ≤ poolCap
  poolCap_le : poolCap ≤ 2147483648
  seenCap_pos : 1 ≤ seenCap
  seenCap_le : seenCap ≤ 32768
deriving DecidableEq, Repr

/-- The default configuration of R8. DESIGN CHOICE (log entry 2): `State.reset` carries it; no statement about a command
rests on it, because the configuration is a field of the state. -/
def Config.standard : Config where
  poolCap := 2048
  seenCap := 1000
  maskKeep := .low
  suffixOrder := .little
  poolCap_pos := by decide
  poolCap_le := by decide
  seenCap_pos := by decide
  seenCap_le := by decide

/-- FREE VALUE (log entry 4). Word `i` of the `n`-th set of unspecified words: S is words 0..15 and X words 16..31 (R24,
R15). No body: nothing can be proved of its value. -/
opaque Config.freeWord : Nat → Nat → Word

/-- FREE VALUE (log entry 4). Byte `i` of the `n`-th unspecified working nonce WN (R27, R15). No body. -/
opaque Config.freeByte : Nat → Nat → Byte

end Sys2Proof
end

