-- ==== Sys2Proof/Machine/State.lean ====
section
/-! DEFINITION. The state of the core (R20 says the list is complete), as plain data; the reasons a step can stop; the state
after reset (R65). -/

namespace Sys2Proof.Machine

/-- A memory of entries (POOL, SEEN, RES; R70, R71): a list of (index, entry) pairs with strictly rising indices. An index
that is not listed has no value: the entry is `unspecified` (R15; log entries 5 and 13). -/
abbrev Memory (α : Type) := List (Nat × α)

/-- What the host does to the core on its inputs, one item a time (R9): a transfer on the CMD port (R261), or hardware
reset (R310). -/
inductive HostInput where
  /-- The host offers this command word on CMD. -/
  | command (w : CmdWord)
  /-- The platform asserts hardware reset. -/
  | hardReset
deriving DecidableEq, Repr

/-- The three memories that can hold unspecified entries (R70). -/
inductive Space where
  | pool
  | seen
  | res
deriving DecidableEq, Repr

/-- The state of the core, under the spec's names. `cfg`, `host` and `freeNext` are the model's own fields. -/
structure State where
  /-- The configuration record (R8, R10). No command writes it (log entry 2). -/
  cfg : Config
  /-- What the host is still going to do, first first (log entry 1). -/
  host : List HostInput
  /-- The number of the next set of free values (log entry 4). -/
  freeNext : Nat
  /-- KEYB[0..31] (R22). -/
  keyb : Key
  /-- KLEN, 0..33 (R22). -/
  klen : BitVec 6
  /-- NONB[0..11] (R23). -/
  nonb : Nonce
  /-- NLEN, 0..13 (R23). -/
  nlen : BitVec 4
  /-- LEN (R34). -/
  len : BitVec 64
  /-- COUNT (R35). -/
  count : Word
  /-- MODULUS (R36). -/
  modulus : Word
  /-- S[0..15], the input state of the Block Transform (R24). -/
  sreg : Block
  /-- X[0..15], the working copy (R24). -/
  xreg : Block
  /-- CTR, the block counter (R25). -/
  ctr : Word
  /-- WN[0..11], the working nonce (R27). -/
  wn : Nonce
  /-- SUFFIX, the pool-suffix counter (R28). -/
  suffix : Word
  /-- SWRAP: SUFFIX has wrapped since the last DRAWINIT (R28). -/
  swrap : Bool
  /-- POOL[0..POOL_CAP-1] (R29). -/
  pool : Memory Word
  /-- IDX, the pool cursor (R29). -/
  idx : Word
  /-- HAVE, the pool's fill level (R29). -/
  haveReg : Word
  /-- LIMIT (R30). -/
  limit : Word
  /-- SEEN[0..SEEN_CAP-1] (R31). -/
  seen : Memory Bool
  /-- RES[0..SEEN_CAP-1] (R32). -/
  res : Memory Word
  /-- RCNT, the number of valid entries of RES (R32). -/
  rcnt : Word
  /-- OUT, the output stream (R33). -/
  out : List Byte
  /-- OUTLEN, the length of OUT (R33). -/
  outLen : BitVec 64
  /-- BUSY (R37). -/
  busy : Bool
  /-- DONE (R38). -/
  done : Bool
  /-- ERR.CODE (R39). -/
  errCode : BitVec 3
  /-- ERR.SUB (R39). -/
  errSub : BitVec 3
  /-- ESTICKY (R39). -/
  esticky : Bool
deriving DecidableEq, Repr

/-- Why a step can stop with a fault. Both are raised by DRAW's loop only, and no state reaches either of them (R60, R226;
stated as an obligation). -/
inductive Fault where
  /-- Raised by NEXTWORD and DRAWSTEP when they read an entry that is `unspecified` (R60: no rule does). Safe: the model
  stops where the hardware would go on. -/
  | unspecifiedRead (m : Space) (i : Nat)
  /-- Raised by the loops of SAMPLE and DRAW when their fuel is spent: no answer, never a result (R226, U13). Safe: the model
  stops where the hardware would go on. -/
  | drawFuelSpent
deriving DecidableEq, Repr

/-- Why a step can be refused. -/
inductive Refusal where
  /-- Raised by an arm of `exec` that has no meaning yet; no arm is such. Safe: the model stops. -/
  | notModelled (mnemonic : String)
deriving DecidableEq, Repr

/-- The state after reset, for a configuration (R65). S, X and WN are `unspecified` there: they hold zero, DESIGN CHOICE
(log entry 3), unsafe. POOL, SEEN and RES are `unspecified`: nothing is listed (log entry 5), safe. -/
def State.resetWith (c : Config) : State where
  cfg := c
  host := []
  freeNext := 0
  keyb := Vector.replicate 32 0#8
  klen := 0#6
  nonb := Vector.replicate 12 0#8
  nlen := 0#4
  len := 0#64
  count := 320#32
  modulus := 1000#32
  sreg := Vector.replicate 16 0#32
  xreg := Vector.replicate 16 0#32
  ctr := 1#32
  wn := Vector.replicate 12 0#8
  suffix := 0#32
  swrap := false
  pool := []
  idx := 0#32
  haveReg := 0#32
  limit := 4294967000#32
  seen := []
  res := []
  rcnt := 0#32
  out := []
  outLen := 0#64
  busy := false
  done := false
  errCode := 0#3
  errSub := 0#3
  esticky := false

/-- The machine right after reset (R65, R311), with the default configuration of R8 (log entry 2). -/
def State.reset : State := State.resetWith Config.standard

end Sys2Proof.Machine
end

