-- ==== Sys2Proof/Machine/Flags.lean ====
section
/-! DEFINITION. The errors and their codes (R270 to R277), the derived flags (R40), and the STATUS and ERR words as the host
reads them (R50). There are no arithmetic condition codes (R40). -/

namespace Sys2Proof.Machine

/-- Why a refill failed: the ERR.SUB values of PoolExhausted that occur (R273; SUB = 1 is reserved and never produced). -/
inductive RefillCause where
  /-- KLEN is not 32 or NLEN is not 12 (SUB = 2). -/
  | invalidInputLength
  /-- All 2^32 pool suffixes have been used (SUB = 6). -/
  | suffixExhausted
deriving DecidableEq, Repr

/-- The errors a call command raises (R270 to R273). -/
inductive CallError where
  /-- R270. -/
  | counterExhausted
  /-- R271. -/
  | invalidInputLength
  /-- R273. -/
  | poolExhausted (cause : RefillCause)
  /-- R272. -/
  | invalidParameters
deriving DecidableEq, Repr

/-- ERR.CODE of an error (R277). -/
def CallError.code : CallError → BitVec 3
  | .counterExhausted => 1#3
  | .invalidInputLength => 2#3
  | .poolExhausted _ => 3#3
  | .invalidParameters => 4#3

/-- ERR.SUB of an error (R273, R277): 0 for the plain codes. -/
def CallError.sub : CallError → BitVec 3
  | .poolExhausted .invalidInputLength => 2#3
  | .poolExhausted .suffixExhausted => 6#3
  | .counterExhausted | .invalidInputLength | .invalidParameters => 0#3

/-- ERR.CODE of IllegalCommand (R104, R274). -/
def illegalCode : BitVec 3 := 5#3

/-- ERRF, STATUS bit 2, not stored (R40). -/
def State.errf (s : State) : Bool := s.errCode != 0#3

/-- KVALID, STATUS bit 4, not stored (R40): exactly 32 key bytes were pushed. -/
def State.kvalid (s : State) : Bool := s.klen == 32#6

/-- NVALID, STATUS bit 5, not stored (R40): exactly 12 nonce bytes were pushed. -/
def State.nvalid (s : State) : Bool := s.nlen == 12#4

/-- STATUS (R50): 0 BUSY, 1 DONE, 2 ERRF, 3 ESTICKY, 4 KVALID, 5 NVALID, 6 SWRAP, 31:7 zero. -/
def State.statusWord (s : State) : Word :=
  BitVec.ofNat 32 (s.busy.toNat + 2 * s.done.toNat + 4 * s.errf.toNat + 8 * s.esticky.toNat + 16 * s.kvalid.toNat
    + 32 * s.nvalid.toNat + 64 * s.swrap.toNat)

/-- ERR (R50, R277): CODE in bits 2:0, SUB in bits 6:4. -/
def State.errWord (s : State) : Word := BitVec.ofNat 32 (s.errCode.toNat + 16 * s.errSub.toNat)

end Sys2Proof.Machine
end

