-- ==== Sys2Proof/Machine/Operands.lean ====
section
/-! DEFINITION. The constants of R7, the byte order (R12, R26, R75), and the length helpers (R13) the commands use on their
operands. -/

namespace Sys2Proof.Machine

/-- `CTR_INIT` (R7): the block counter at the start of every keystream generation. -/
def ctrInit : Word := 1#32

/-- `MAX_U32` (R7). -/
def maxU32 : Nat := 4294967295

/-- `MAX_BLOCKS` (R7): blocks one keystream call may produce. -/
def maxBlocks : Nat := 4294967295

/-- `MAX_KS_BYTES` (R7, R157): bytes one keystream call may produce. -/
def maxKsBytes : Nat := 274877906880

/-- `LE32` (R12): four bytes, first byte first, to a word. -/
def le32 (b0 b1 b2 b3 : Byte) : Word :=
  BitVec.ofNat 32 (b0.toNat + 256 * b1.toNat + 65536 * b2.toNat + 16777216 * b3.toNat)

/-- Byte `k` of a word, bits `8k+7:8k` (R11). -/
def byteOf (w : Word) (k : Nat) : Byte := w.extractLsb' (8 * k) 8

/-- `BYTES32` (R12): a word to its four bytes, least significant first. -/
def bytes32 (w : Word) : List Byte := [byteOf w 0, byteOf w 1, byteOf w 2, byteOf w 3]

/-- `KEYW[i]` (R26): little-endian word `i` of the key. -/
def keyWord (k : Key) (i : Fin 8) : Word :=
  le32 k[4 * i.val] k[4 * i.val + 1] k[4 * i.val + 2] k[4 * i.val + 3]

/-- `NONW(n)[i]` (R26): little-endian word `i` of a nonce. -/
def nonceWord (n : Nonce) (i : Fin 3) : Word :=
  le32 n[4 * i.val] n[4 * i.val + 1] n[4 * i.val + 2] n[4 * i.val + 3]

/-- Bytes to words, four at a time, first byte first (R75 (d)); an incomplete last group is no word (R83: it does not
occur). -/
def wordsOfBytes : List Byte → List Word
  | b0 :: b1 :: b2 :: b3 :: bs => le32 b0 b1 b2 b3 :: wordsOfBytes bs
  | _ => []

/-- `ceil8(L)` (R13): bytes needed for `L` bits. -/
def ceil8 (l : Nat) : Nat := l / 8 + (if l % 8 = 0 then 0 else 1)

/-- Blocks needed for `nbytes` bytes (R155, R157). -/
def blocksFor (nbytes : Nat) : Nat := (nbytes + 63) / 64

/-- The mask of MASKLAST for `r` kept bits, 1 ≤ r ≤ 7 (R159). -/
def lastMask (keep : MaskKeep) (r : Nat) : Byte :=
  match keep with
  | .low => BitVec.ofNat 8 (2 ^ r - 1)
  | .high => BitVec.ofNat 8 (255 <<< (8 - r))

/-- MASKLAST (R159): the final byte with only `r` of its bits kept. -/
def maskLast (keep : MaskKeep) (b : Byte) (r : Nat) : Byte := b &&& lastMask keep r

/-- The sink of GENBITS (R160): the last byte of the stream masked when `r` is not 0, every other byte as it is. -/
def maskFinal (keep : MaskKeep) (r : Nat) : List Byte → List Byte
  | [] => []
  | [b] => [if r = 0 then b else maskLast keep b r]
  | b :: c :: bs => b :: maskFinal keep r (c :: bs)

end Sys2Proof.Machine
end

