-- ==== Sys2Proof/Machine/Ops.lean ====
section
/-! DEFINITION. The named operations over memories and registers: reading and writing an entry, CALLSTART and CALLOK (R255,
R256), `raise` (R280), an illegal command (R104), reset (R249, R310), becoming `unspecified` (R15), and taking the next
input of the host (R92, R261). -/

namespace Sys2Proof.Machine

/-! ### Memories (R70, R71) -/

/-- `MemRead(M, i)` (R13); nothing for an entry that is `unspecified`. -/
def Memory.read {α : Type} : Memory α → Nat → Option α
  | [], _ => none
  | (j, v) :: m, i => if i = j then some v else Memory.read m i

/-- `MemWrite(M, i, v)` (R13), keeping the indices strictly rising. -/
def Memory.write {α : Type} : Memory α → Nat → α → Memory α
  | [], i, v => [(i, v)]
  | (j, u) :: m, i, v =>
    if i < j then (i, v) :: (j, u) :: m
    else if i = j then (i, v) :: m
    else (j, u) :: Memory.write m i v

/-- The memory whose entries from index `k` on are those of a list, and that lists nothing else. -/
def Memory.fromList {α : Type} (k : Nat) : List α → Memory α
  | [] => []
  | v :: l => (k, v) :: Memory.fromList (k + 1) l

/-- Every listed index is above `k`, and the indices rise strictly. -/
def Memory.risesFrom {α : Type} : Option Nat → Memory α → Bool
  | _, [] => true
  | none, (j, _) :: m => Memory.risesFrom (some j) m
  | some k, (j, _) :: m => decide (k < j) && Memory.risesFrom (some j) m

/-- The canonical form of a memory: indices strictly rising. (An unlisted index has no value, so no entry can equal what an
unlisted one reads as.) -/
def Memory.wf {α : Type} (m : Memory α) : Bool := Memory.risesFrom none m

/-! ### Becoming unspecified (R15, R24, R27) -/

/-- Sixteen free words of the `n`-th set, from word `k` on (log entry 4). -/
def freeBlock (n k : Nat) : Block := Vector.ofFn fun i => Config.freeWord n (k + i.val)

/-- Twelve free bytes of the `n`-th set (log entry 4). -/
def freeNonce (n : Nat) : Nonce := Vector.ofFn fun i => Config.freeByte n i.val

/-- S and X become `unspecified`, as they are between commands (R24). -/
def forgetBlockScope (s : State) : State :=
  { s with sreg := freeBlock s.freeNext 0, xreg := freeBlock s.freeNext 16, freeNext := s.freeNext + 1 }

/-- S, X, WN, POOL and SEEN become `unspecified`, as they are outside a DRAW (R24, R27, R29, R31). -/
def forgetDrawScope (s : State) : State :=
  { s with
    sreg := freeBlock s.freeNext 0
    xreg := freeBlock s.freeNext 16
    wn := freeNonce s.freeNext
    pool := []
    seen := []
    freeNext := s.freeNext + 1 }

/-! ### The beginning and the end of a command -/

/-- `OUT <- bytes`, with OUTLEN its length (R33). -/
def setOut (bytes : List Byte) (s : State) : State :=
  { s with out := bytes, outLen := BitVec.ofNat 64 bytes.length }

/-- `RCNT <- 0`; the entries of RES at and above RCNT, all of them, are `unspecified` (R32). -/
def clearResults (s : State) : State := { s with rcnt := 0#32, res := [] }

/-- The command is complete: BUSY is 0 again (R37). -/
def complete (s : State) : State := { s with busy := false }

/-- CALLSTART (R255). -/
def callStart (s : State) : State :=
  clearResults (setOut [] { s with busy := true, done := false, errCode := 0#3, errSub := 0#3 })

/-- CALLOK (R256). -/
def callOk (s : State) : State := { s with done := true, busy := false }

/-- `raise E(sub)` (R280): the record of the error; no result; the scratch state `unspecified`; the command is complete. -/
def raise (e : CallError) (s : State) : State :=
  forgetDrawScope (clearResults (setOut []
    { s with errCode := e.code, errSub := e.sub, esticky := true, done := false, busy := false }))

/-- An illegal command (R104, R274): exactly ERR.CODE, ERR.SUB and ESTICKY are written, and the command is complete. -/
def illegalCommand (s : State) : State :=
  complete { s with errCode := illegalCode, errSub := 0#3, esticky := true }

/-- Reset (R65, R249, R310): every piece of the spec's state takes its reset value, S, X, WN, POOL, SEEN and RES become
`unspecified`. The configuration and what the host is going to do are not the core's state and stay. -/
def resetCore (s : State) : State :=
  forgetDrawScope { State.resetWith s.cfg with host := s.host, freeNext := s.freeNext }

/-! ### Micro-operations that can end the command (R280) -/

/-- How a micro-operation of a DRAW ends: with a result; with an error raised, which ends the command (R280); or stuck in a
fault of the model (R60, R226). -/
inductive Micro (α : Type) where
  /-- It returns `a` and leaves the state `s`. -/
  | done (a : α) (s : State)
  /-- It raised an error: `s` is the state after `raise`. -/
  | raised (s : State)
  /-- The model has no answer. -/
  | stuck (f : Fault)
deriving DecidableEq, Repr

/-- One micro-operation after another. -/
def Micro.bind {α β : Type} (m : Micro α) (f : α → State → Micro β) : Micro β :=
  match m with
  | .done a s => f a s
  | .raised s => .raised s
  | .stuck e => .stuck e

/-- `MemRead(M, i)` inside a DRAW: an entry that is `unspecified` has no value to go on with (R60). -/
def fetchEntry {α : Type} (sp : Space) (m : Memory α) (i : Nat) (s : State) : Micro α :=
  match Memory.read m i with
  | some v => .done v s
  | none => .stuck (.unspecifiedRead sp i)

/-! ### The next input of the host (R92, R261, R310) -/

/-- What the core does with the host's next input: it settles at once (nothing offered, a word held, hardware reset, an
illegal command), or it runs an instruction from a state in which the word has been accepted. -/
inductive Fetched where
  /-- The step ends in this state. -/
  | settled (s : State)
  /-- The step runs this instruction from this state. -/
  | run (i : Instr) (s : State)
deriving DecidableEq, Repr

/-- A command word is accepted: it leaves the port and BUSY is 1 (R37, R261). -/
def accept (rest : List HostInput) (s : State) : State := { s with host := rest, busy := true }

/-- The next input of the host. With nothing offered the core stays idle (R312). A word offered while BUSY = 1 is held
(R92). Hardware reset is taken whenever it comes (R310). A word is decoded, and an illegal one has its effect (R104). -/
def fetchInput (s : State) : Fetched :=
  match s.host with
  | [] => .settled s
  | .hardReset :: rest => .settled (resetCore { s with host := rest })
  | .command w :: rest =>
    if s.busy then .settled s
    else match decode w with
      | .ok i => .run i (accept rest s)
      | .error _ => .settled (illegalCommand (accept rest s))

/-- The host offers this word next, and BUSY is 0, so that the word transfers (R92; log entry 14). -/
def offerWord (w : CmdWord) (s : State) : State := { s with host := .command w :: s.host, busy := false }

end Sys2Proof.Machine
end

