-- ==== Sys2Proof/Machine/Transform.lean ====
section
/-! DEFINITION. The Block Transform (spec/40_block_transform.md): pure functions on words and on sixteen-word arrays; none
writes a flag, none can fail (R141). -/

namespace Sys2Proof.Machine

/-- ADD32 (R130): the carry out of bit 31 is discarded. -/
def add32 (a b : Word) : Word := a + b

/-- XOR32 (R131). -/
def xor32 (a b : Word) : Word := a ^^^ b

/-- ROTL32 (R132), for 1 ≤ n ≤ 31. -/
def rotl32 (w : Word) (n : Nat) : Word := (w <<< n) ||| (w >>> (32 - n))

/-- QR as a function on four words (R133): twelve steps, strictly in order. -/
def quarterWords (a b c d : Word) : Word × Word × Word × Word :=
  let a := add32 a b
  let d := xor32 d a
  let d := rotl32 d 16
  let c := add32 c d
  let b := xor32 b c
  let b := rotl32 b 12
  let a := add32 a b
  let d := xor32 d a
  let d := rotl32 d 8
  let c := add32 c d
  let b := xor32 b c
  let b := rotl32 b 7
  (a, b, c, d)

/-- QR(a, b, c, d) on the working array (R133): it reads and writes exactly these four words. -/
def quarterRound (a b c d : Fin 16) (x : Block) : Block :=
  let q := quarterWords x[a] x[b] x[c] x[d]
  (((x.set a q.1).set b q.2.1).set c q.2.2.1).set d q.2.2.2

/-- COLROUND (R135). -/
def columnRound (x : Block) : Block :=
  let x := quarterRound 0 4 8 12 x
  let x := quarterRound 1 5 9 13 x
  let x := quarterRound 2 6 10 14 x
  quarterRound 3 7 11 15 x

/-- DIAGROUND (R136). -/
def diagonalRound (x : Block) : Block :=
  let x := quarterRound 0 5 10 15 x
  let x := quarterRound 1 6 11 12 x
  let x := quarterRound 2 7 8 13 x
  quarterRound 3 4 9 14 x

/-- DOUBLEROUND (R138): one column round, then one diagonal round. -/
def doubleRound (x : Block) : Block := diagonalRound (columnRound x)

/-- `n` double-rounds. -/
def doubleRounds : Nat → Block → Block
  | 0, x => x
  | n + 1, x => doubleRounds n (doubleRound x)

/-- ROUNDS20 (R139): ten double-rounds. -/
def rounds20 (x : Block) : Block := doubleRounds 10 x

/-- The feed-forward of BLOCK (R140): `O[i] = x[i] +32 S[i]`. -/
def feedForward (x s : Block) : Block := Vector.ofFn fun i => add32 x[i] s[i]

/-- BLOCK (R140) as the pure function R141 says it is. -/
def blockTransform (s : Block) : Block := feedForward (rounds20 s) s

end Sys2Proof.Machine
end

