-- ==== Sys2Proof/Machine/Keystream.lean ====
section
/-! DEFINITION. The Keystream Generator (spec/41_keystream_generator.md): INITSTATE, SERIALIZE, KS, and the commands GENBITS
and GENWORDS. -/

namespace Sys2Proof.Machine

/-- The layout of the State Array (R152, with the constants of R150): four constants, eight key words, the counter, three
nonce words. -/
def stateArray (k : Key) (ctr : Word) (n : Nonce) : Block :=
  #v[0x61707865#32, 0x3320646e#32, 0x79622d32#32, 0x6b206574#32,
     keyWord k 0, keyWord k 1, keyWord k 2, keyWord k 3, keyWord k 4, keyWord k 5, keyWord k 6, keyWord k 7,
     ctr, nonceWord n 0, nonceWord n 1, nonceWord n 2]

/-- INITSTATE(n) (R152): S from the constants, KEYB, CTR and the nonce `n`. -/
def initState (n : Nonce) (s : State) : State := { s with sreg := stateArray s.keyb s.ctr n }

/-- The first two lines of BLOCK (R140): X is a copy of S, then the 20 rounds. -/
def runRounds (s : State) : State := { s with xreg := rounds20 s.sreg }

/-- SERIALIZE(O) (R153): the 64 bytes of sixteen words, each little-endian. -/
def serialize (o : Block) : List Byte := o.toList.flatMap bytes32

/-- One turn of the loop of KS (R155) up to the sink: INITSTATE, BLOCK, SERIALIZE, and the counter advanced. -/
def ksTurn (n : Nonce) (s : State) : List Byte × State :=
  let s := runRounds (initState n s)
  (serialize (feedForward s.xreg s.sreg), { s with ctr := s.ctr + 1#32 })

/-- The loop of KS (R155) with `blocks` turns and `left` bytes to go: the bytes given to the sink, and the state after. -/
def ksLoop (n : Nonce) : (blocks left : Nat) → State → List Byte × State
  | 0, _, s => ([], s)
  | blocks + 1, left, s =>
    let t := ksTurn n s
    let r := ksLoop n blocks (left - 64) t.2
    (t.1.take (min 64 left) ++ r.1, r.2)

/-- KS(n, nbytes) (R155): `nbytes` bytes of keystream; CTR starts at 1. -/
def keystream (n : Nonce) (nbytes : Nat) (s : State) : List Byte × State :=
  ksLoop n (blocksFor nbytes) nbytes { s with ctr := ctrInit }

/-- The key and the nonce have exactly 32 and 12 bytes (R160, R162, R184). -/
def inputsValid (s : State) : Bool := s.klen == 32#6 && s.nlen == 12#4

/-- What GENBITS and GENWORDS do once the length of the request is known to be legal (R160, R162): KS into OUT, the last
byte masked to `r` bits when `r` is not 0, and CALLOK; S and X are then `unspecified` (R24). -/
def deliver (nbytes r : Nat) (s : State) : State :=
  let k := keystream s.nonb nbytes s
  callOk (forgetBlockScope (setOut (maskFinal s.cfg.maskKeep r k.1) k.2))

/-- GENBITS (R160): `ceil8(LEN)` bytes of keystream, the last one masked when LEN is not a multiple of 8. -/
def execGenbits (s : State) : Host.Outcome State Fault Refusal :=
  let s := callStart s
  if inputsValid s = false then .next (raise .invalidInputLength s)
  else if maxKsBytes < ceil8 s.len.toNat then .next (raise .counterExhausted s)
  else .next (deliver (ceil8 s.len.toNat) (s.len.toNat % 8) s)

/-- GENWORDS (R162): LEN words of keystream. -/
def execGenwords (s : State) : Host.Outcome State Fault Refusal :=
  let s := callStart s
  if inputsValid s = false then .next (raise .invalidInputLength s)
  else if maxKsBytes / 4 < s.len.toNat then .next (raise .counterExhausted s)
  else .next (deliver (4 * s.len.toNat) 0 s)

end Sys2Proof.Machine
end

