-- ==== Sys2Proof/Machine/Pool.lean ====
section
/-! DEFINITION. The Keystream Pool (spec/42_keystream_pool.md): WNONCE, REFILL, NEXTWORD. -/

namespace Sys2Proof.Machine

/-- The suffix byte that meets nonce byte `8 + k` (R181). -/
def suffixByte (o : SuffixOrder) (suffix : Word) (k : Nat) : Byte :=
  match o with
  | .little => byteOf suffix k
  | .big => byteOf suffix (3 - k)

/-- The working nonce of a suffix (R181): the caller's nonce with its last four bytes XORed. -/
def workingNonce (o : SuffixOrder) (n : Nonce) (suffix : Word) : Nonce :=
  #v[n[0], n[1], n[2], n[3], n[4], n[5], n[6], n[7],
     n[8] ^^^ suffixByte o suffix 0, n[9] ^^^ suffixByte o suffix 1,
     n[10] ^^^ suffixByte o suffix 2, n[11] ^^^ suffixByte o suffix 3]

/-- WNONCE (R181). -/
def setWorkingNonce (s : State) : State := { s with wn := workingNonce s.cfg.suffixOrder s.nonb s.suffix }

/-- The advance of SUFFIX after its use (R182). -/
def advanceSuffix (s : State) : State :=
  { s with swrap := s.swrap || s.suffix == 0xFFFFFFFF#32, suffix := s.suffix + 1#32 }

/-- The fill of the pool (R183): the first POOL_CAP keystream words under WN; then the cursor at 0 and the fill level at the
capacity (R184). -/
def fillPool (s : State) : State :=
  let k := keystream s.wn (4 * s.cfg.poolCap) s
  { k.2 with
    pool := Memory.fromList 0 (wordsOfBytes k.1)
    idx := 0#32
    haveReg := BitVec.ofNat 32 s.cfg.poolCap }

/-- REFILL (R184). -/
def refill (s : State) : Micro Unit :=
  if inputsValid s = false then .raised (raise (.poolExhausted .invalidInputLength) s)
  else if s.swrap = true then .raised (raise (.poolExhausted .suffixExhausted) s)
  else .done () (fillPool (advanceSuffix (setWorkingNonce s)))

/-- The first line of NEXTWORD (R186): an empty pool is refilled. -/
def refillIfEmpty (s : State) : Micro Unit := if s.idx = s.haveReg then refill s else .done () s

/-- The rest of NEXTWORD (R186): the word at the cursor, and the cursor advanced. -/
def takeWord (s : State) : Micro Word :=
  (fetchEntry .pool s.pool s.idx.toNat s).bind fun r s => .done r { s with idx := s.idx + 1#32 }

/-- NEXTWORD (R186). -/
def nextWord (s : State) : Micro Word := (refillIfEmpty s).bind fun _ s => takeWord s

end Sys2Proof.Machine
end

