-- ==== Sys2Proof/Machine/Sampler.lean ====
section
/-! DEFINITION. The Unbiased Sampler (spec/43_unbiased_sampler.md): LIMITCALC, ACCEPT, SAMPLE. -/

namespace Sys2Proof.Machine

/-- The limit of a modulus (R200): `MAX_U32 - (MAX_U32 mod MODULUS)`. -/
def limitOf (m : Word) : Word := BitVec.ofNat 32 (maxU32 - maxU32 % m.toNat)

/-- ACCEPT(r) (R202): unsigned, equality accepts. -/
def acceptWord (r limit : Word) : Bool := decide (r.toNat ≤ limit.toNat)

/-- The value of an accepted word (R203): `r mod MODULUS`. -/
def valueOf (r m : Word) : Word := BitVec.ofNat 32 (r.toNat % m.toNat)

/-- The loop of SAMPLE (R203), under fuel (R226; log entry 6): words above LIMIT are discarded. -/
def sampleLoop : (fuel : Nat) → State → Micro Word
  | 0, _ => .stuck .drawFuelSpent
  | fuel + 1, s =>
    (nextWord s).bind fun r s =>
      if acceptWord r s.limit then .done (valueOf r s.modulus) s else sampleLoop fuel s

/-- One more than the words a DRAW can consume: `2^32 * POOL_CAP + 1` (R226). -/
def drawFuel (s : State) : Nat := 4294967296 * s.cfg.poolCap + 1

/-- SAMPLE (R203). -/
def sample (s : State) : Micro Word := sampleLoop (drawFuel s) s

end Sys2Proof.Machine
end

