-- ==== Sys2Proof/Machine/Draw.lean ====
section
/-! DEFINITION. The Unique Draw Engine (spec/44_unique_draw.md): PARAMCHECK, DRAWINIT, DRAWSTEP, and the command DRAW. -/

namespace Sys2Proof.Machine

/-- PARAMCHECK (R215): true when DRAW goes on. -/
def paramsValid (s : State) : Bool :=
  s.count != 0#32 && decide (s.count.toNat ≤ s.modulus.toNat) && decide (s.modulus.toNat ≤ s.cfg.seenCap)

/-- DRAWINIT (R216): LIMITCALC, an empty Seen-set, an empty Result Set, an empty pool, suffix 0. -/
def drawInit (s : State) : State :=
  { clearResults s with
    limit := limitOf s.modulus
    seen := Memory.fromList 0 (List.replicate s.modulus.toNat false)
    idx := 0#32
    haveReg := 0#32
    suffix := 0#32
    swrap := false }

/-- The new value `v` is marked seen and appended to the Result Set (R217). -/
def appendResult (v : Word) (s : State) : State :=
  { s with
    seen := Memory.write s.seen v.toNat true
    res := Memory.write s.res s.rcnt.toNat v
    rcnt := s.rcnt + 1#32 }

/-- DRAWSTEP (R217): a candidate is appended, or dropped when it was seen before. -/
def drawStep (s : State) : Micro Unit :=
  (sample s).bind fun v s =>
    (fetchEntry .seen s.seen v.toNat s).bind fun dup s =>
      if dup then .done () s else .done () (appendResult v s)

/-- The loop of DRAW (R218), under fuel (R226; log entry 6). -/
def drawLoop : (fuel : Nat) → State → Micro Unit
  | 0, _ => .stuck .drawFuelSpent
  | fuel + 1, s =>
    if s.rcnt.toNat < s.count.toNat then (drawStep s).bind fun _ s => drawLoop fuel s else .done () s

/-- DRAW (R218). After it the pool, the Seen-set and the scratch registers are `unspecified` (R24, R27, R29, R31). -/
def execDraw (s : State) : Host.Outcome State Fault Refusal :=
  let s := callStart s
  if paramsValid s = false then .next (raise .invalidParameters s)
  else match drawLoop (drawFuel s) (drawInit s) with
    | .done _ s => .next (callOk (forgetDrawScope s))
    | .raised s => .next s
    | .stuck f => .fault f

end Sys2Proof.Machine
end

