-- ==== Sys2Proof/Machine/Setup.lean ====
section
/-! DEFINITION. The commands that run no computation (spec/45_host_commands.md sections 2 and 3): the nine setup commands
(R250) and SRST. BUSY is 0 again after each (R37). -/

namespace Sys2Proof.Machine

/-- NOP (R240): nothing. -/
def execNop (s : State) : Host.Outcome State Fault Refusal := .next (complete s)

/-- KCLR (R241). -/
def execKclr (s : State) : Host.Outcome State Fault Refusal :=
  .next (complete { s with keyb := Vector.replicate 32 0#8, klen := 0#6 })

/-- The three cases of KPUSH (R242): a byte stored, the 33rd byte dropped and counted, nothing. -/
def pushKeyByte (b : Byte) (s : State) : State :=
  if h : s.klen.toNat < 32 then { s with keyb := s.keyb.set s.klen.toNat b h, klen := s.klen + 1#6 }
  else if s.klen = 32#6 then { s with klen := 33#6 }
  else s

/-- KPUSH b (R242). -/
def execKpush (b : Byte) (s : State) : Host.Outcome State Fault Refusal := .next (complete (pushKeyByte b s))

/-- NCLR (R243). -/
def execNclr (s : State) : Host.Outcome State Fault Refusal :=
  .next (complete { s with nonb := Vector.replicate 12 0#8, nlen := 0#4 })

/-- The three cases of NPUSH (R244). -/
def pushNonceByte (b : Byte) (s : State) : State :=
  if h : s.nlen.toNat < 12 then { s with nonb := s.nonb.set s.nlen.toNat b h, nlen := s.nlen + 1#4 }
  else if s.nlen = 12#4 then { s with nlen := 13#4 }
  else s

/-- NPUSH b (R244). -/
def execNpush (b : Byte) (s : State) : Host.Outcome State Fault Refusal := .next (complete (pushNonceByte b s))

/-- `LEN[31:0]` (R34). -/
def lenLow (l : BitVec 64) : Word := l.extractLsb' 0 32

/-- `LEN[63:32]` (R34). -/
def lenHigh (l : BitVec 64) : Word := l.extractLsb' 32 32

/-- A 64-bit value from its two halves (R34). -/
def joinHalves (high low : Word) : BitVec 64 := high ++ low

/-- LENLO v (R245). -/
def execLenlo (v : Word) (s : State) : Host.Outcome State Fault Refusal :=
  .next (complete { s with len := joinHalves (lenHigh s.len) v })

/-- LENHI v (R246). -/
def execLenhi (v : Word) (s : State) : Host.Outcome State Fault Refusal :=
  .next (complete { s with len := joinHalves v (lenLow s.len) })

/-- SETCNT v (R247): any value is stored. -/
def execSetcnt (v : Word) (s : State) : Host.Outcome State Fault Refusal := .next (complete { s with count := v })

/-- SETMOD v (R248): any value is stored; LIMIT is not recomputed. -/
def execSetmod (v : Word) (s : State) : Host.Outcome State Fault Refusal := .next (complete { s with modulus := v })

/-- SRST (R249): exactly the effect of hardware reset (R310). -/
def execSrst (s : State) : Host.Outcome State Fault Refusal := .next (resetCore s)

end Sys2Proof.Machine
end

