-- ==== Sys2Proof/Machine/Dispatch.lean ====
section
/-! DEFINITION. One arm per command, each one direct call of its meaning. -/

namespace Sys2Proof.Machine

def exec (i : Instr) (s : State) : Host.Outcome State Fault Refusal :=
  match i with
  | .nop => Sys2Proof.Machine.execNop s
  | .kclr => Sys2Proof.Machine.execKclr s
  | .kpush b => Sys2Proof.Machine.execKpush b s
  | .nclr => Sys2Proof.Machine.execNclr s
  | .npush b => Sys2Proof.Machine.execNpush b s
  | .lenlo v => Sys2Proof.Machine.execLenlo v s
  | .lenhi v => Sys2Proof.Machine.execLenhi v s
  | .setcnt v => Sys2Proof.Machine.execSetcnt v s
  | .setmod v => Sys2Proof.Machine.execSetmod v s
  | .genbits => Sys2Proof.Machine.execGenbits s
  | .genwords => Sys2Proof.Machine.execGenwords s
  | .draw => Sys2Proof.Machine.execDraw s
  | .srst => Sys2Proof.Machine.execSrst s

end Sys2Proof.Machine
end

