-- ==== Sys2Proof/Machine/Step.lean ====
section
/-! DEFINITION. One step: the core takes the next input of the host and, where it is a command, executes it to completion
(R9, R10, R92, R261). -/

namespace Sys2Proof.Machine

/-- One step of the core. -/
def step (s : State) : Host.Outcome State Fault Refusal :=
  match fetchInput s with
  | .settled t => .next t
  | .run i t => exec i t

/-- The host offers the word of an instruction whose bits are `w` as its next input, with BUSY = 0 so that it transfers
(R92; log entries 1 and 14). -/
def State.withFetchWord (s : State) (nbits w : Nat) : State := offerWord (tableWord nbits w) s

end Sys2Proof.Machine
end

