-- ==== Sys2Proof/Machine/Assembler.lean ====
section
/-! DEFINITION. The assembler syntax (R107) and the pseudo-instructions (R108): notation of the host's, no part of the core.
Text is a list of characters, so that the kernel can run the assembler. -/

namespace Sys2Proof.Machine

/-- The pseudo-instructions of R108. -/
inductive Pseudo where
  /-- `LOADKEY h`, exactly 64 hex digits. -/
  | loadkey (k : Key)
  /-- `LOADNONCE h`, exactly 24 hex digits. -/
  | loadnonce (n : Nonce)
  /-- `SETLEN n`, 0 ≤ n < 2^64. -/
  | setlen (n : BitVec 64)
  /-- `KSBITS n`. -/
  | ksbits (n : BitVec 64)
  /-- `KSWORDS n`. -/
  | kswords (n : BitVec 64)
  /-- `DRAWU c, m`. -/
  | drawu (c m : Word)
  /-- `DRAW320`. -/
  | draw320
deriving DecidableEq, Repr

/-- `LENLO n mod 2^32`; `LENHI n div 2^32` (R108). -/
def setLenCommands (n : BitVec 64) : List Instr :=
  [.lenlo (BitVec.ofNat 32 (n.toNat % 4294967296)), .lenhi (BitVec.ofNat 32 (n.toNat / 4294967296))]

/-- The expansions of R108, in the listed order. -/
def Pseudo.expand : Pseudo → List Instr
  | .loadkey k => .kclr :: k.toList.map .kpush
  | .loadnonce n => .nclr :: n.toList.map .npush
  | .setlen n => setLenCommands n
  | .ksbits n => setLenCommands n ++ [.genbits]
  | .kswords n => setLenCommands n ++ [.genwords]
  | .drawu c m => [.setcnt c, .setmod m, .draw]
  | .draw320 => [.setcnt 320#32, .setmod 1000#32, .draw]

/-- Why the assembler rejects a line (R107: it rejects rather than truncates). -/
inductive AsmError where
  /-- The first word is no mnemonic of R103 or R108. -/
  | unknownMnemonic
  /-- The operands are missing, too many, or not separated as the mnemonic asks. -/
  | operandForm
  /-- An operand is no number, or not the number of hex digits asked for. -/
  | badOperand
  /-- A byte operand above 0xFF, a word operand above 0xFFFFFFFF, a length of 2^64 or more. -/
  | operandTooLarge
deriving DecidableEq, Repr

/-- The text of a line up to its comment: `#` starts a comment that runs to the end of the line (R107). -/
def stripComment (cs : List Char) : List Char := cs.takeWhile (· ≠ '#')

/-- A word in front of the words found so far; no word for no characters. -/
def addToken (t : List Char) (ts : List (List Char)) : List (List Char) := if t.isEmpty then ts else t :: ts

/-- One character of `splitTokens`, from the right: the word being read, and the words after it. -/
def tokenStep (c : Char) (p : List Char × List (List Char)) : List Char × List (List Char) :=
  if c = ' ' ∨ c = '\t' then ([], addToken p.1 p.2)
  else if c = ',' then ([], [','] :: addToken p.1 p.2)
  else (c :: p.1, p.2)

/-- The words of a line; a comma is a word of its own (log entry 15). -/
def splitTokens (cs : List Char) : List (List Char) :=
  let r := cs.foldr tokenStep ([], [])
  addToken r.1 r.2

/-- The value of a digit, 0 to 15; hex digits in either case (log entry 15). -/
def digitValue (c : Char) : Option Nat :=
  let n := c.toNat
  if 48 ≤ n ∧ n ≤ 57 then some (n - 48)
  else if 97 ≤ n ∧ n ≤ 102 then some (n - 87)
  else if 65 ≤ n ∧ n ≤ 70 then some (n - 55)
  else none

/-- Digits in a base, after the value read so far. -/
def digitsFrom (base : Nat) : Nat → List Char → Option Nat
  | v, [] => some v
  | v, c :: cs =>
    match digitValue c with
    | some d => if d < base then digitsFrom base (v * base + d) cs else none
    | none => none

/-- An unsigned integer, in decimal or in hexadecimal with `0x` before it (R107). -/
def parseNumber : List Char → Option Nat
  | [] => none
  | '0' :: 'x' :: c :: cs => digitsFrom 16 0 (c :: cs)
  | c :: cs => digitsFrom 10 0 (c :: cs)

/-- A number below a bound, or why not. -/
def parseBelow (bound : Nat) (t : List Char) : Except AsmError Nat :=
  match parseNumber t with
  | none => .error .badOperand
  | some n => if n < bound then .ok n else .error .operandTooLarge

/-- Pairs of hex digits, first byte first (R108). -/
def parseHexBytes : List Char → Option (List Byte)
  | [] => some []
  | a :: b :: cs =>
    match digitValue a, digitValue b, parseHexBytes cs with
    | some x, some y, some bs => some (BitVec.ofNat 8 (16 * x + y) :: bs)
    | _, _, _ => none
  | [_] => none

/-- Exactly `n` bytes in hex digits (R108: only the exact lengths). -/
def parseBytes (n : Nat) (t : List Char) : Except AsmError (Vector Byte n) :=
  match parseHexBytes t with
  | some bs => if h : bs.length = n then .ok ⟨bs.toArray, by simpa using h⟩ else .error .badOperand
  | none => .error .badOperand

/-- What a mnemonic asks for, and what the line then means. -/
inductive Form where
  | plain (is : List Instr)
  | byteOp (f : Byte → Instr)
  | wordOp (f : Word → Instr)
  | lenOp (f : BitVec 64 → Pseudo)
  | keyOp
  | nonceOp
  | pairOp

/-- The mnemonics of R103 and R108. -/
def mnemonicTable : List (List Char × Form) :=
  [(['N', 'O', 'P'], .plain [.nop]),
   (['K', 'C', 'L', 'R'], .plain [.kclr]),
   (['K', 'P', 'U', 'S', 'H'], .byteOp .kpush),
   (['N', 'C', 'L', 'R'], .plain [.nclr]),
   (['N', 'P', 'U', 'S', 'H'], .byteOp .npush),
   (['L', 'E', 'N', 'L', 'O'], .wordOp .lenlo),
   (['L', 'E', 'N', 'H', 'I'], .wordOp .lenhi),
   (['S', 'E', 'T', 'C', 'N', 'T'], .wordOp .setcnt),
   (['S', 'E', 'T', 'M', 'O', 'D'], .wordOp .setmod),
   (['G', 'E', 'N', 'B', 'I', 'T', 'S'], .plain [.genbits]),
   (['G', 'E', 'N', 'W', 'O', 'R', 'D', 'S'], .plain [.genwords]),
   (['D', 'R', 'A', 'W'], .plain [.draw]),
   (['S', 'R', 'S', 'T'], .plain [.srst]),
   (['L', 'O', 'A', 'D', 'K', 'E', 'Y'], .keyOp),
   (['L', 'O', 'A', 'D', 'N', 'O', 'N', 'C', 'E'], .nonceOp),
   (['S', 'E', 'T', 'L', 'E', 'N'], .lenOp .setlen),
   (['K', 'S', 'B', 'I', 'T', 'S'], .lenOp .ksbits),
   (['K', 'S', 'W', 'O', 'R', 'D', 'S'], .lenOp .kswords),
   (['D', 'R', 'A', 'W', 'U'], .pairOp),
   (['D', 'R', 'A', 'W', '3', '2', '0'], .plain Pseudo.draw320.expand)]

/-- The commands of a mnemonic with its operands. -/
def assembleForm (f : Form) (ops : List (List Char)) : Except AsmError (List Instr) :=
  match f, ops with
  | .plain is, [] => .ok is
  | .byteOp g, [t] => (parseBelow 256 t).map fun n => [g (BitVec.ofNat 8 n)]
  | .wordOp g, [t] => (parseBelow 4294967296 t).map fun n => [g (BitVec.ofNat 32 n)]
  | .lenOp g, [t] => (parseBelow 18446744073709551616 t).map fun n => (g (BitVec.ofNat 64 n)).expand
  | .keyOp, [t] => (parseBytes 32 t).map fun k => (Pseudo.loadkey k).expand
  | .nonceOp, [t] => (parseBytes 12 t).map fun k => (Pseudo.loadnonce k).expand
  | .pairOp, [t, [','], u] =>
    match parseBelow 4294967296 t, parseBelow 4294967296 u with
    | .ok c, .ok m => .ok (Pseudo.drawu (BitVec.ofNat 32 c) (BitVec.ofNat 32 m)).expand
    | .error e, _ => .error e
    | _, .error e => .error e
  | _, _ => .error .operandForm

/-- One line of a program (R107): the commands it stands for; none for an empty line or a comment. -/
def assembleLine (line : List Char) : Except AsmError (List Instr) :=
  match splitTokens (stripComment line) with
  | [] => .ok []
  | m :: ops =>
    match mnemonicTable.find? (fun r => r.1 = m) with
    | some r => assembleForm r.2 ops
    | none => .error .unknownMnemonic

/-- A program (R107): its command words, in order; the first line that does not assemble rejects it. -/
def assemble : List (List Char) → Except AsmError (List CmdWord)
  | [] => .ok []
  | l :: ls =>
    match assembleLine l, assemble ls with
    | .ok is, .ok ws => .ok (is.map encode ++ ws)
    | .error e, _ => .error e
    | _, .error e => .error e

/-- The host is going to transfer these words on CMD, after what it was going to do before (log entry 1). -/
def offerProgram (ws : List CmdWord) (s : State) : State := { s with host := s.host ++ ws.map .command }

end Sys2Proof.Machine
end

