-- ==== Sys2Proof/Machine/Closed.lean ====
section
/-! DEFINITION. The closed forms the spec gives beside its loops: the keystream (R154, R156), the word stream of a draw
(R188), and the candidates and result of a draw (R220). The commands do not call them; statements compare the two. -/

namespace Sys2Proof.Machine

/-- The output words of the block of counter value `c` (R154): BLOCK of the State Array. -/
def ksBlockWords (k : Key) (n : Nonce) (c : Nat) : Block := blockTransform (stateArray k (BitVec.ofNat 32 c) n)

/-- `KSWORD(n, j)` (R156): word `j mod 16` of the block of counter `1 + j div 16`. -/
def ksWord (k : Key) (n : Nonce) (j : Nat) : Word :=
  (ksBlockWords k n (1 + j / 16))[j % 16]'(Nat.mod_lt _ (by decide))

/-- `KSBYTE(n, i)` (R156): byte `i mod 4` of word `(i mod 64) div 4` of the block of counter `1 + i div 64`. -/
def ksByte (k : Key) (n : Nonce) (i : Nat) : Byte :=
  byteOf ((ksBlockWords k n (1 + i / 64))[i % 64 / 4]'(by omega)) (i % 4)

/-- `W(t)` (R188): word `t` of the pool stream of a draw, for a configuration, a key and a nonce. -/
def streamWord (c : Config) (k : Key) (n : Nonce) (t : Nat) : Word :=
  ksWord k (workingNonce c.suffixOrder n (BitVec.ofNat 32 (t / c.poolCap))) (t % c.poolCap)

/-- The number of words the stream of a draw has: `2^32 * POOL_CAP` (R188). -/
def streamLength (c : Config) : Nat := 4294967296 * c.poolCap

/-- The candidates among the first `t` words of the stream (R220): the values of the accepted words, in order. -/
def candidates (c : Config) (k : Key) (n : Nonce) (m : Word) : Nat → List Word
  | 0 => []
  | t + 1 =>
    let w := streamWord c k n t
    candidates c k n m t ++ (if acceptWord w (limitOf m) then [valueOf w m] else [])

/-- The distinct values of a list in the order of first occurrence (R220). -/
def firstOccurrences (l : List Word) : List Word := l.foldl (fun acc v => if v ∈ acc then acc else acc ++ [v]) []

/-- The distinct candidates among the first `t` words (R220), in the order in which a draw accepts them. -/
def drawnAfter (c : Config) (k : Key) (n : Nonce) (m : Word) (t : Nat) : List Word :=
  firstOccurrences (candidates c k n m t)

end Sys2Proof.Machine
end

