-- ==== Sys2Proof/Machine/Ports.lean ====
section
/-! DEFINITION. What the host reads (R50, R52, R262, R263): the sixteen control and status registers, the RES window, the
OUT stream. Reads have no side effects (R87), so they are functions of the state and no steps (log entry 9). -/

namespace Sys2Proof.Machine

/-- What one transfer on the RD port returns (R262). -/
structure RdReply where
  /-- 1 when the read is served. -/
  ok : Bool
  /-- The value; zero when the read is refused. -/
  data : Word
deriving DecidableEq, Repr

/-- A refused read (R262): `ok` = 0, `data` = 0. -/
def RdReply.refusal : RdReply := ⟨false, 0#32⟩

/-- `CSR[a]` for 0x0000 ≤ a ≤ 0x000F (R50); nothing above. -/
def csrAt (s : State) (a : Nat) : Option Word :=
  match a with
  | 0x0 => some s.statusWord
  | 0x1 => some s.errWord
  | 0x2 => some (s.klen.zeroExtend 32)
  | 0x3 => some (s.nlen.zeroExtend 32)
  | 0x4 => some (lenLow s.len)
  | 0x5 => some (lenHigh s.len)
  | 0x6 => some s.count
  | 0x7 => some s.modulus
  | 0x8 => some s.rcnt
  | 0x9 => some (lenLow s.outLen)
  | 0xA => some (lenHigh s.outLen)
  | 0xB => some s.ctr
  | 0xC => some s.suffix
  | 0xD => some s.idx
  | 0xE => some s.haveReg
  | 0xF => some s.limit
  | _ => none

/-- `RES[i]` through the RD window (R52, R262): served only for `i < RCNT`. An entry below RCNT is always listed (stated as
an invariant); were it not, the read would be refused (log entry 10). -/
def resAt (s : State) (i : Nat) : RdReply :=
  if i < s.rcnt.toNat then
    match Memory.read s.res i with
    | some v => ⟨true, v⟩
    | none => .refusal
  else .refusal

/-- The reply of the RD port at an address (R262). -/
def rdReply (s : State) (a : RdAddr) : RdReply :=
  match csrAt s a.toNat with
  | some v => ⟨true, v⟩
  | none => if 0x8000 ≤ a.toNat then resAt s (a.toNat - 0x8000) else .refusal

/-- A transfer on the RD port: none while BUSY = 1 (R92). -/
def State.rdTransfer (s : State) (a : RdAddr) : Option RdReply := if s.busy then none else some (rdReply s a)

/-- The `k`-th transfer on the OUT port after a call: `OUT[k]` (R263); none past the end, and none while BUSY = 1 (R92). -/
def State.outTransfer (s : State) (k : Nat) : Option Byte := if s.busy then none else s.out[k]?

end Sys2Proof.Machine
end

