-- ==== Sys2Proof/Safety.lean ====
section
/-! DEFINITION. The terms the statements are written in: what a step leaves unchanged, the invariant of the states between
commands (R61), running several commands, and the opcode map as a table (R103). -/

namespace Sys2Proof.Machine

/-! ### What stays the same, by the classes of R20 -/

/-- KEYB and KLEN (R22). -/
def SameKey (s t : State) : Prop := t.keyb = s.keyb ∧ t.klen = s.klen

/-- NONB and NLEN (R23). -/
def SameNonce (s t : State) : Prop := t.nonb = s.nonb ∧ t.nlen = s.nlen

/-- LEN, COUNT and MODULUS (R34 to R36). -/
def SameArguments (s t : State) : Prop := t.len = s.len ∧ t.count = s.count ∧ t.modulus = s.modulus

/-- CTR, SUFFIX, SWRAP, IDX, HAVE and LIMIT: the registers of the engines that the host can read (R25, R28 to R30). -/
def SameCounters (s t : State) : Prop :=
  t.ctr = s.ctr ∧ t.suffix = s.suffix ∧ t.swrap = s.swrap ∧ t.idx = s.idx ∧ t.haveReg = s.haveReg ∧ t.limit = s.limit

/-- WN, POOL and SEEN: the draw-scoped state that the host cannot read (R27, R29, R31); every entry of the two memories
reads as before. -/
def SameDrawScope (s t : State) : Prop :=
  t.wn = s.wn ∧ (∀ i, Memory.read t.pool i = Memory.read s.pool i) ∧ (∀ i, Memory.read t.seen i = Memory.read s.seen i)

/-- S and X (R24). -/
def SameBlockScope (s t : State) : Prop := t.sreg = s.sreg ∧ t.xreg = s.xreg

/-- RES, RCNT, OUT and OUTLEN (R32, R33); every entry of RES reads as before. -/
def SameResults (s t : State) : Prop :=
  (∀ i, Memory.read t.res i = Memory.read s.res i) ∧ t.rcnt = s.rcnt ∧ t.out = s.out ∧ t.outLen = s.outLen

/-- DONE, ERR.CODE, ERR.SUB and ESTICKY (R38, R39). -/
def SameStatus (s t : State) : Prop :=
  t.done = s.done ∧ t.errCode = s.errCode ∧ t.errSub = s.errSub ∧ t.esticky = s.esticky

/-- The configuration and what the host is going to do: no command writes them. -/
def SameModel (s t : State) : Prop := t.cfg = s.cfg ∧ t.host = s.host

/-- Everything R250 (a) and (b) says a setup command never writes; and BUSY is 0 after it (R37). -/
def SetupFrame (s t : State) : Prop :=
  SameCounters s t ∧ SameDrawScope s t ∧ SameBlockScope s t ∧ SameResults s t ∧ SameStatus s t ∧ SameModel s t ∧ t.busy = false

/-- Everything no call command writes: the key, the nonce, LEN, COUNT and MODULUS (R61 (d) and (e), R218). -/
def CallFrame (s t : State) : Prop := SameKey s t ∧ SameNonce s t ∧ SameArguments s t ∧ SameModel s t

/-- What every raised error leaves (R280, R281): its code, ESTICKY, no result, DONE and BUSY 0. -/
def ErrorRecorded (e : CallError) (t : State) : Prop :=
  t.errCode = e.code ∧ t.errSub = e.sub ∧ t.esticky = true ∧ t.out = [] ∧ t.outLen = 0#64 ∧ t.rcnt = 0#32 ∧
    t.done = false ∧ t.busy = false

/-- What every successful call leaves in the status (R256, R257), `s` being the state before it. -/
def CallSucceeded (s t : State) : Prop :=
  t.done = true ∧ t.busy = false ∧ t.errCode = 0#3 ∧ t.errSub = 0#3 ∧ t.esticky = s.esticky

/-- The call commands (R103). -/
def isCallCommand : Instr → Bool
  | .genbits | .genwords | .draw => true
  | .nop | .kclr | .kpush _ | .nclr | .npush _ | .lenlo _ | .lenhi _ | .setcnt _ | .setmod _ | .srst => false

/-- Bit `j` of the final byte is one that MASKLAST keeps when `r` bits are asked for (R159): bits `r-1:0`, or bits
`7:8-r`. -/
def keptBit (keep : MaskKeep) (r j : Nat) : Bool :=
  match keep with
  | .low => decide (j < r)
  | .high => decide (8 - r ≤ j)

/-! ### Runs -/

/-- Commands one after another, each to completion (R261); nothing when one of them does not answer a next state. -/
def runInstrs : List Instr → State → Option State
  | [], s => some s
  | i :: is, s =>
    match exec i s with
    | .next t => runInstrs is t
    | .fault _ => none
    | .refused _ => none

/-- NEXTWORD `n` times (R186): the words in order. -/
def takeWords : Nat → State → Micro (List Word)
  | 0, s => .done [] s
  | n + 1, s => (nextWord s).bind fun r s => (takeWords n s).bind fun rs s => .done (r :: rs) s

/-! ### The invariant of the states between commands (R61, R257, U11, U12) -/

/-- KLEN is 0..33 and NLEN 0..13 (R22, R23). -/
def LengthsBounded (s : State) : Prop := s.klen.toNat ≤ 33 ∧ s.nlen.toNat ≤ 13

/-- `IDX <= HAVE <= POOL_CAP` (R61 (a)), and HAVE is 0 or POOL_CAP (R29). -/
def PoolOrdered (s : State) : Prop :=
  s.idx.toNat ≤ s.haveReg.toNat ∧ (s.haveReg.toNat = 0 ∨ s.haveReg.toNat = s.cfg.poolCap)

/-- RES lists exactly the entries below RCNT, pairwise distinct, each below SEEN_CAP, at most SEEN_CAP of them (R32, R61
(c) and (g); the MODULUS of the draw may have been overwritten since). -/
def ResultsHeld (s : State) : Prop :=
  ∃ vs : List Word, s.res = Memory.fromList 0 vs ∧ s.rcnt.toNat = vs.length ∧ vs.Nodup ∧
    (∀ v ∈ vs, v.toNat < s.cfg.seenCap) ∧ vs.length ≤ s.cfg.seenCap

/-- OUTLEN is the length of OUT, at most MAX_KS_BYTES (R33, R157); OUT and RES do not both hold a result (R257). -/
def OutputHeld (s : State) : Prop :=
  s.outLen.toNat = s.out.length ∧ s.out.length ≤ maxKsBytes ∧ (s.out = [] ∨ s.rcnt = 0#32)

/-- The status registers between commands: BUSY is 0 (R37); CODE is at most 5, and SUB is 2 or 6 with CODE 3 and 0
otherwise (R273, R277, U11); a code comes with ESTICKY (R286); DONE excludes every error but IllegalCommand, and without
DONE there is no result (R257). -/
def StatusHeld (s : State) : Prop :=
  s.busy = false ∧ s.errCode.toNat ≤ 5 ∧ (s.errCode = 3#3 → s.errSub = 2#3 ∨ s.errSub = 6#3) ∧
    (s.errCode ≠ 3#3 → s.errSub = 0#3) ∧ (s.errCode ≠ 0#3 → s.esticky = true) ∧
    (s.done = true → s.errCode = 0#3 ∨ s.errCode = 5#3) ∧ (s.done = false → s.out = [] ∧ s.rcnt = 0#32)

/-- The three memories are in canonical form. -/
def MemoriesCanonical (s : State) : Prop :=
  Memory.wf s.pool = true ∧ Memory.wf s.seen = true ∧ Memory.wf s.res = true

/-- The invariant of the states between commands. -/
def BetweenCommands (s : State) : Prop :=
  LengthsBounded s ∧ PoolOrdered s ∧ ResultsHeld s ∧ OutputHeld s ∧ StatusHeld s ∧ MemoriesCanonical s

/-! ### The opcode map as a table (R103) -/

/-- A row of R103: the match and mask of the command words it selects, and the commands it stands for. -/
structure OpcodeRow where
  matchBits : CmdWord
  maskBits : CmdWord
  isCommand : Instr → Bool

/-- The thirteen rows of R103, with the match and mask values of the table. -/
def opcodeRows : List OpcodeRow :=
  [⟨0x0000000000#40, 0xFFFFFFFFFF#40, fun i => i == .nop⟩,
   ⟨0x0100000000#40, 0xFFFFFFFFFF#40, fun i => i == .kclr⟩,
   ⟨0x0200000000#40, 0xFFFFFFFF00#40, fun i => match i with | .kpush _ => true | _ => false⟩,
   ⟨0x0300000000#40, 0xFFFFFFFFFF#40, fun i => i == .nclr⟩,
   ⟨0x0400000000#40, 0xFFFFFFFF00#40, fun i => match i with | .npush _ => true | _ => false⟩,
   ⟨0x0500000000#40, 0xFF00000000#40, fun i => match i with | .lenlo _ => true | _ => false⟩,
   ⟨0x0600000000#40, 0xFF00000000#40, fun i => match i with | .lenhi _ => true | _ => false⟩,
   ⟨0x0700000000#40, 0xFF00000000#40, fun i => match i with | .setcnt _ => true | _ => false⟩,
   ⟨0x0800000000#40, 0xFF00000000#40, fun i => match i with | .setmod _ => true | _ => false⟩,
   ⟨0x1000000000#40, 0xFFFFFFFFFF#40, fun i => i == .genbits⟩,
   ⟨0x1100000000#40, 0xFFFFFFFFFF#40, fun i => i == .genwords⟩,
   ⟨0x1200000000#40, 0xFFFFFFFFFF#40, fun i => i == .draw⟩,
   ⟨0x1F00000000#40, 0xFFFFFFFFFF#40, fun i => i == .srst⟩]

/-- The illegal command words as R104 lists them, for an opcode `op` and an immediate `imm`. -/
def illegalFields (op imm : Nat) : Prop :=
  (0x09 ≤ op ∧ op ≤ 0x0F) ∨ (0x13 ≤ op ∧ op ≤ 0x1E) ∨ (0x20 ≤ op ∧ op ≤ 0xFF) ∨
    ((op = 0x00 ∨ op = 0x01 ∨ op = 0x03 ∨ op = 0x10 ∨ op = 0x11 ∨ op = 0x12 ∨ op = 0x1F) ∧ imm ≠ 0) ∨
    ((op = 0x02 ∨ op = 0x04) ∧ 256 ≤ imm)

/-! ### The lanes of a round (R135 to R137) -/

/-- The index groups of COLROUND (R135). -/
def columnGroups : List (Fin 16 × Fin 16 × Fin 16 × Fin 16) :=
  [(0, 4, 8, 12), (1, 5, 9, 13), (2, 6, 10, 14), (3, 7, 11, 15)]

/-- The index groups of DIAGROUND (R136). -/
def diagonalGroups : List (Fin 16 × Fin 16 × Fin 16 × Fin 16) :=
  [(0, 5, 10, 15), (1, 6, 11, 12), (2, 7, 8, 13), (3, 4, 9, 14)]

/-- Quarter-rounds on index groups, one after another. -/
def runGroups (gs : List (Fin 16 × Fin 16 × Fin 16 × Fin 16)) (x : Block) : Block :=
  gs.foldl (fun x g => quarterRound g.1 g.2.1 g.2.2.1 g.2.2.2 x) x

/-- Row `r` of the array (words `4r..4r+3`) rotated left by `r` positions, for every row (R137). -/
def rotateRows (x : Block) : Block :=
  #v[x[0], x[1], x[2], x[3], x[5], x[6], x[7], x[4], x[10], x[11], x[8], x[9], x[15], x[12], x[13], x[14]]

/-- The rows rotated back. -/
def rotateRowsBack (x : Block) : Block :=
  #v[x[0], x[1], x[2], x[3], x[7], x[4], x[5], x[6], x[10], x[11], x[8], x[9], x[13], x[14], x[15], x[12]]

/-! ### What the host can tell apart (R55) -/

/-- Two states that agree on every field the host can read (R55): those the CSRs of R50 show (KLEN and NLEN, the
arguments, the readable registers of the engines, the status, RCNT, OUTLEN), the entries of RES below RCNT, and OUT. Every
other field is free: KEYB, NONB, S, X, WN, POOL, SEEN, RES at and above RCNT, and the model's own `cfg`, `host` and
`freeNext`. -/
def SameReadable (s t : State) : Prop :=
  t.klen = s.klen ∧ t.nlen = s.nlen ∧ SameArguments s t ∧ SameCounters s t ∧ SameStatus s t ∧ t.busy = s.busy ∧
    t.rcnt = s.rcnt ∧ (∀ i, i < s.rcnt.toNat → Memory.read t.res i = Memory.read s.res i) ∧
    t.out = s.out ∧ t.outLen = s.outLen

end Sys2Proof.Machine
end

