-- ==== Sys2Proof/Certificates/Slice0/Obligations.lean ====
section
/-! DEFINITION. The statements for the provers, from the numbered rules of spec/. Each docstring names the rules. The
configuration (MASK_KEEP, SUFFIX_ORDER, POOL_CAP, SEEN_CAP) is a field of the state, so every statement over a state holds
for every legal configuration (R8). -/

open Sys2Proof Sys2Proof.Machine

/-! ### Encoding (spec/30_encoding.md) -/

/-- R100, R101, R103: the decoder reads back every encoded command, with every operand at every value. -/
def Obligations.DecodeOfEncode : Prop := ∀ i : Instr, decode (encode i) = .ok i

/-- R100, R103: no two words decode to one command: the word is the encoding of what it decodes to. -/
def Obligations.EncodeOfDecode : Prop := ∀ (w : CmdWord) (i : Instr), decode w = .ok i → encode i = w

/-- R103: a word selects a row of the opcode map (`c & mask = match`) exactly when it decodes to that row's command, and
the rows are mutually exclusive. -/
def Obligations.OpcodeMapSelects : Prop :=
  (∀ row ∈ opcodeRows, ∀ w : CmdWord,
    w &&& row.maskBits = row.matchBits ↔ ∃ i, decode w = .ok i ∧ row.isCommand i = true) ∧
  opcodeRows.Pairwise fun r1 r2 => ∀ w : CmdWord, ¬ (w &&& r1.maskBits = r1.matchBits ∧ w &&& r2.maskBits = r2.matchBits)

/-- R110: the worked encodings, legal and illegal. -/
def Obligations.WorkedEncodings : Prop :=
  decode 0x0000000000#40 = .ok .nop ∧ decode 0x020000009F#40 = .ok (.kpush 0x9F#8) ∧
  decode 0x08000003E8#40 = .ok (.setmod 1000#32) ∧ decode 0x06000001FF#40 = .ok (.lenhi 0x1FF#32) ∧
  decode 0x1200000000#40 = .ok .draw ∧
  decode 0x0900000000#40 = .error (.unassignedOpcode 0x09#8) ∧
  decode 0x1200000001#40 = .error (.immediateNotZero 0x12#8 1#32) ∧
  decode 0x0200000100#40 = .error (.immediateNotZero 0x02#8 0x100#32) ∧
  decode 0xFF00000000#40 = .error (.unassignedOpcode 0xFF#8)

/-- R104: a word is an illegal command exactly when its fields are among those the rule lists, for the decoder and for the
well-formedness checks alike; and an illegal command writes ERR.CODE = 5, ERR.SUB = 0 and ESTICKY = 1 and nothing else (BUSY
is 0 after it). -/
def Obligations.IllegalCommandEffect : Prop :=
  (∀ w : CmdWord, (∃ e, decode w = .error e) ↔ illegalFields (w.toNat / 4294967296) (w.toNat % 4294967296)) ∧
  (∀ w : CmdWord, WellFormed w = false ↔ illegalFields (w.toNat / 4294967296) (w.toNat % 4294967296)) ∧
  ∀ s : State, illegalCommand s = { s with errCode := 5#3, errSub := 0#3, esticky := true, busy := false }

/-! ### Steps (R9, R92, R261, R310, R312) -/

/-- R261, R37: a word offered on CMD while BUSY = 0 that decodes to a command is taken from the port, BUSY is 1 while it
runs, and the step is the execution of that command. The list of the host's inputs is the model's (log entry 1). -/
def Obligations.StepRunsDecodedCommand : Prop :=
  ∀ (s : State) (w : CmdWord) (rest : List HostInput) (i : Instr),
    s.host = .command w :: rest → s.busy = false → decode w = .ok i →
    step s = exec i { s with host := rest, busy := true }

/-- R92, R104, R261, R310, R312: with nothing offered the core stays as it is; a word offered while BUSY = 1 is held, not
dropped; an illegal word that transfers is taken and has the effect of an illegal command; hardware reset has the effect of
SRST, and it does not wait for BUSY = 0. The list of the host's inputs, and hardware reset as one of them, are the model's
(log entries 1 and 8). -/
def Obligations.OtherInputsSettle : Prop :=
  (∀ s : State, s.host = [] → step s = .next s) ∧
  (∀ (s : State) (w : CmdWord) (rest : List HostInput),
    s.host = .command w :: rest → s.busy = true → step s = .next s) ∧
  (∀ (s : State) (w : CmdWord) (rest : List HostInput) (e : DecodeError),
    s.host = .command w :: rest → s.busy = false → decode w = .error e →
    step s = .next (illegalCommand { s with host := rest })) ∧
  ∀ (s : State) (rest : List HostInput), s.host = .hardReset :: rest → step s = exec .srst { s with host := rest }

/-! ### Setup commands (spec/45_host_commands.md) -/

/-- R240: NOP is the word 0x0000000000 and changes no state (BUSY is 0 again after it, ERR as it was); 0x0000000001 is an
illegal command. -/
def Obligations.NopChangesNothing : Prop :=
  encode .nop = 0x0000000000#40 ∧ decode 0x0000000001#40 = .error (.immediateNotZero 0x00#8 1#32) ∧
  ∀ s : State, exec .nop s = .next { s with busy := false }

/-- R241, R243: the words of KCLR and NCLR; KCLR zeroes every key byte and KLEN, and nothing else; NCLR does the same with the nonce. -/
def Obligations.ClearCommandsZeroBuffers : Prop :=
  encode .kclr = 0x0100000000#40 ∧ encode .nclr = 0x0300000000#40 ∧
  ∀ s : State,
    (∃ t, exec .kclr s = .next t ∧ (∀ (i : Nat) (h : i < 32), t.keyb[i] = 0#8) ∧ t.klen.toNat = 0 ∧
      t.kvalid = false ∧ SameNonce s t ∧ SameArguments s t ∧ SetupFrame s t) ∧
    (∃ t, exec .nclr s = .next t ∧ (∀ (i : Nat) (h : i < 12), t.nonb[i] = 0#8) ∧ t.nlen.toNat = 0 ∧
      t.nvalid = false ∧ SameKey s t ∧ SameArguments s t ∧ SetupFrame s t)

/-- R242: the three cases of KPUSH, and what it leaves unchanged. -/
def Obligations.KpushStoresOrSaturates : Prop :=
  ∀ (s : State) (b : Byte), ∃ t, exec (.kpush b) s = .next t ∧
    (s.klen.toNat < 32 → t.klen.toNat = s.klen.toNat + 1 ∧
      ∀ (i : Nat) (h : i < 32), t.keyb[i] = if i = s.klen.toNat then b else s.keyb[i]) ∧
    (s.klen.toNat = 32 → t.klen.toNat = 33 ∧ t.keyb = s.keyb) ∧
    (32 < s.klen.toNat → t.klen = s.klen ∧ t.keyb = s.keyb) ∧
    (t.kvalid = true ↔ t.klen.toNat = 32) ∧
    SameNonce s t ∧ SameArguments s t ∧ SetupFrame s t

/-- R244: the three cases of NPUSH, and what it leaves unchanged. -/
def Obligations.NpushStoresOrSaturates : Prop :=
  ∀ (s : State) (b : Byte), ∃ t, exec (.npush b) s = .next t ∧
    (s.nlen.toNat < 12 → t.nlen.toNat = s.nlen.toNat + 1 ∧
      ∀ (i : Nat) (h : i < 12), t.nonb[i] = if i = s.nlen.toNat then b else s.nonb[i]) ∧
    (s.nlen.toNat = 12 → t.nlen.toNat = 13 ∧ t.nonb = s.nonb) ∧
    (12 < s.nlen.toNat → t.nlen = s.nlen ∧ t.nonb = s.nonb) ∧
    (t.nvalid = true ↔ t.nlen.toNat = 12) ∧
    SameKey s t ∧ SameArguments s t ∧ SetupFrame s t

/-- R245, R246: the words of LENLO and LENHI; LENLO writes LEN[31:0] and leaves LEN[63:32], LENHI the other way round; nothing else is written. -/
def Obligations.LenHalvesWritten : Prop :=
  ∀ (s : State) (v : Word),
    (encode (.lenlo v)).toNat = 0x0500000000 + v.toNat ∧ (encode (.lenhi v)).toNat = 0x0600000000 + v.toNat ∧
    (∃ t, exec (.lenlo v) s = .next t ∧ t.len.toNat % 4294967296 = v.toNat ∧
      t.len.toNat / 4294967296 = s.len.toNat / 4294967296 ∧ t.count = s.count ∧ t.modulus = s.modulus ∧
      SameKey s t ∧ SameNonce s t ∧ SetupFrame s t) ∧
    (∃ t, exec (.lenhi v) s = .next t ∧ t.len.toNat / 4294967296 = v.toNat ∧
      t.len.toNat % 4294967296 = s.len.toNat % 4294967296 ∧ t.count = s.count ∧ t.modulus = s.modulus ∧
      SameKey s t ∧ SameNonce s t ∧ SetupFrame s t)

/-- R247, R248: the words of SETCNT and SETMOD; SETCNT and SETMOD store any value, and nothing else; SETMOD does not recompute LIMIT. -/
def Obligations.CountAndModulusStored : Prop :=
  ∀ (s : State) (v : Word),
    (encode (.setcnt v)).toNat = 0x0700000000 + v.toNat ∧ (encode (.setmod v)).toNat = 0x0800000000 + v.toNat ∧
    (∃ t, exec (.setcnt v) s = .next t ∧ t.count = v ∧ t.modulus = s.modulus ∧ t.len = s.len ∧
      SameKey s t ∧ SameNonce s t ∧ SetupFrame s t) ∧
    (∃ t, exec (.setmod v) s = .next t ∧ t.modulus = v ∧ t.count = s.count ∧ t.len = s.len ∧
      SameKey s t ∧ SameNonce s t ∧ SetupFrame s t)

/-- R242, R244: KCLR and then any number of KPUSH commands: KLEN counts the pushes and saturates at 33, byte `i` of the key
is the `i`-th push, and only the key changes; NCLR and NPUSH the same, with NLEN saturating at 13. -/
def Obligations.BuffersHoldThePushedBytes : Prop :=
  ∀ (s : State) (bs : List Byte),
    (∃ t, runInstrs (.kclr :: bs.map .kpush) s = some t ∧
      t.klen.toNat = min bs.length 33 ∧ (∀ (i : Nat) (h : i < 32), t.keyb[i] = (bs[i]?).getD 0#8) ∧
      SameNonce s t ∧ SameArguments s t ∧ SetupFrame s t) ∧
    (∃ t, runInstrs (.nclr :: bs.map .npush) s = some t ∧
      t.nlen.toNat = min bs.length 13 ∧ (∀ (i : Nat) (h : i < 12), t.nonb[i] = (bs[i]?).getD 0#8) ∧
      SameKey s t ∧ SameArguments s t ∧ SetupFrame s t)

/-- R108: LOADKEY loads its 32 bytes, LOADNONCE its 12 bytes, SETLEN its 64-bit value, and DRAWU is SETCNT, SETMOD, DRAW. -/
def Obligations.PseudoInstructionsLoad : Prop :=
  (∀ (s : State) (k : Key), ∃ t, runInstrs (Pseudo.loadkey k).expand s = some t ∧ t.keyb = k ∧ t.klen = 32#6) ∧
  (∀ (s : State) (n : Nonce), ∃ t, runInstrs (Pseudo.loadnonce n).expand s = some t ∧ t.nonb = n ∧ t.nlen = 12#4) ∧
  (∀ (s : State) (l : BitVec 64), ∃ t, runInstrs (Pseudo.setlen l).expand s = some t ∧ t.len = l) ∧
  (∀ (s : State) (l : BitVec 64), ∃ t, runInstrs (Pseudo.setlen l).expand s = some t ∧
    runInstrs (Pseudo.ksbits l).expand s = runInstrs [.genbits] t ∧
    runInstrs (Pseudo.kswords l).expand s = runInstrs [.genwords] t) ∧
  ∀ (s : State) (c m : Word), ∃ t, runInstrs [.setcnt c, .setmod m] s = some t ∧ t.count = c ∧ t.modulus = m ∧
    runInstrs (Pseudo.drawu c m).expand s = runInstrs [.draw] t

/-! ### Reset (spec/70_reset_and_hazards.md, R65) -/

/-- R65, R249: SRST from any state gives every register the reset value of R65, and the memories that become
`unspecified` list nothing. -/
def Obligations.SrstGivesResetValues : Prop :=
  ∀ s : State, ∃ t, exec .srst s = .next t ∧
    (∀ (i : Nat) (h : i < 32), t.keyb[i] = 0#8) ∧ t.klen.toNat = 0 ∧ (∀ (i : Nat) (h : i < 12), t.nonb[i] = 0#8) ∧
    t.nlen.toNat = 0 ∧ t.len.toNat = 0 ∧ t.count.toNat = 320 ∧ t.modulus.toNat = 1000 ∧ t.ctr.toNat = 1 ∧
    t.suffix.toNat = 0 ∧ t.swrap = false ∧ t.idx.toNat = 0 ∧ t.haveReg.toNat = 0 ∧ t.limit.toNat = 4294967000 ∧
    t.rcnt.toNat = 0 ∧ t.out = [] ∧ t.outLen.toNat = 0 ∧ t.busy = false ∧ t.done = false ∧ t.esticky = false ∧
    t.errCode.toNat = 0 ∧ t.errSub.toNat = 0 ∧
    (∀ i, Memory.read t.pool i = none ∧ Memory.read t.seen i = none ∧ Memory.read t.res i = none) ∧ SameModel s t

/-- R311: what the host reads after reset, for every configuration, and after SRST from any state: the sixteen CSRs, every
other address refused, OUT empty. -/
def Obligations.ResetAsTheHostReadsIt : Prop :=
  ∀ t : State, ((∃ c, t = State.resetWith c) ∨ ∃ s, exec .srst s = .next t) →
    (List.range 16).map (csrAt t) =
      [0, 0, 0, 0, 0, 0, 320, 1000, 0, 0, 0, 1, 0, 0, 0, 4294967000].map (fun n => some (BitVec.ofNat 32 n)) ∧
    (∀ a : RdAddr, 16 ≤ a.toNat → t.rdTransfer a = some ⟨false, 0#32⟩) ∧ ∀ k, t.outTransfer k = none

/-! ### Block Transform (spec/40_block_transform.md) -/

/-- R132: bit `i` of `w` becomes bit `(i + n) mod 32` of ROTL32(w, n). -/
def Obligations.RotateMovesBits : Prop :=
  ∀ (w : Word) (n i : Nat), 1 ≤ n → n ≤ 31 → i < 32 → (rotl32 w n).getLsbD ((i + n) % 32) = w.getLsbD i

/-- R133: as a function on four words QR is a bijection. -/
def Obligations.QuarterRoundBijective : Prop :=
  Function.Bijective fun q : Word × Word × Word × Word => quarterWords q.1 q.2.1 q.2.2.1 q.2.2.2

/-- R133: QR(a, b, c, d) on four distinct indices writes the four words of the twelve steps and leaves the twelve other
words of X untouched. -/
def Obligations.QuarterRoundTouchesFourWords : Prop :=
  ∀ (a b c d : Fin 16) (x : Block), [a, b, c, d].Nodup →
    let q := quarterWords x[a] x[b] x[c] x[d]
    (quarterRound a b c d x)[a] = q.1 ∧ (quarterRound a b c d x)[b] = q.2.1 ∧
    (quarterRound a b c d x)[c] = q.2.2.1 ∧ (quarterRound a b c d x)[d] = q.2.2.2 ∧
    ∀ e : Fin 16, e ∉ [a, b, c, d] → (quarterRound a b c d x)[e] = x[e]

/-- R137: within a column round, and within a diagonal round, the four quarter-rounds in any order give the same X; and the
diagonal round is the column round between the rotation of the rows and its undoing. -/
def Obligations.RoundLanesCommute : Prop :=
  (∀ (gs : List (Fin 16 × Fin 16 × Fin 16 × Fin 16)) (x : Block),
    (gs.Perm columnGroups → runGroups gs x = columnRound x) ∧ (gs.Perm diagonalGroups → runGroups gs x = diagonalRound x)) ∧
  ∀ x : Block, diagonalRound x = rotateRowsBack (columnRound (rotateRows x))

/-- R138, R139, R140, R142 (a): ROUNDS20 is ten times a column round and then a diagonal round; BLOCK adds the input to it
word by word, modulo 2^32; BLOCK of zeros is zeros. -/
def Obligations.BlockIsRoundsPlusInput : Prop :=
  (∀ s : Block, rounds20 s = (fun x => diagonalRound (columnRound x))^[10] s ∧
    ∀ i : Fin 16, (blockTransform s)[i].toNat = ((rounds20 s)[i].toNat + s[i].toNat) % 4294967296) ∧
  blockTransform (Vector.replicate 16 0#32) = Vector.replicate 16 0#32

/-- R12, R76: LE32 is the sum of its bytes times the powers of 256, BYTES32 lists the bytes of a word from the lowest up,
they are inverse to each other, and reading a serialised block back in words gives the block's words. -/
def Obligations.WordsAndBytesAgree : Prop :=
  (∀ b0 b1 b2 b3 : Byte,
    (le32 b0 b1 b2 b3).toNat = b0.toNat + 256 * b1.toNat + 65536 * b2.toNat + 16777216 * b3.toNat) ∧
  (∀ w : Word, (bytes32 w).map BitVec.toNat =
    [w.toNat % 256, w.toNat / 256 % 256, w.toNat / 65536 % 256, w.toNat / 16777216]) ∧
  (∀ b0 b1 b2 b3 : Byte, bytes32 (le32 b0 b1 b2 b3) = [b0, b1, b2, b3]) ∧
  (∀ w : Word, le32 (byteOf w 0) (byteOf w 1) (byteOf w 2) (byteOf w 3) = w) ∧
  ∀ o : Block, wordsOfBytes (serialize o) = o.toList ∧ (serialize o).length = 64

/-! ### Keystream Generator (spec/41_keystream_generator.md) -/

/-- R152: INITSTATE writes the sixteen words of S as the rule lays them out (constants, key words, counter, nonce words,
each byte group little-endian), and nothing else. -/
def Obligations.InitStateLayout : Prop :=
  ∀ (n : Nonce) (s : State),
    (initState n s).sreg[0].toNat = 0x61707865 ∧ (initState n s).sreg[1].toNat = 0x3320646e ∧
    (initState n s).sreg[2].toNat = 0x79622d32 ∧ (initState n s).sreg[3].toNat = 0x6b206574 ∧
    (∀ (i : Nat) (h : i < 8), (initState n s).sreg[4 + i].toNat = s.keyb[4 * i].toNat + 256 * s.keyb[4 * i + 1].toNat +
      65536 * s.keyb[4 * i + 2].toNat + 16777216 * s.keyb[4 * i + 3].toNat) ∧
    (initState n s).sreg[12] = s.ctr ∧
    (∀ (i : Nat) (h : i < 3), (initState n s).sreg[13 + i].toNat = n[4 * i].toNat + 256 * n[4 * i + 1].toNat +
      65536 * n[4 * i + 2].toNat + 16777216 * n[4 * i + 3].toNat) ∧
    ∃ a, initState n s = { s with sreg := a }

/-- R155, R156, R158: KS(n, nbytes), for every legal `nbytes`, gives exactly the bytes of the closed form, and the words of
a whole number of words are those of the closed form; it leaves CTR at `(1 + nblocks) mod 2^32` and writes nothing but S, X
and CTR. -/
def Obligations.KeystreamClosedForm : Prop :=
  ∀ (n : Nonce) (nbytes : Nat) (s : State), nbytes ≤ maxKsBytes →
    (keystream n nbytes s).1 = (List.range nbytes).map (ksByte s.keyb n) ∧
    (∀ m, nbytes = 4 * m → wordsOfBytes (keystream n nbytes s).1 = (List.range m).map (ksWord s.keyb n)) ∧
    (keystream n nbytes s).2.ctr.toNat = (1 + (nbytes + 63) / 64) % 4294967296 ∧
    ∃ a b c, (keystream n nbytes s).2 = { s with sreg := a, xreg := b, ctr := c }

/-- R25, R157: in a keystream generation of a legal length, no block is generated with CTR = 0: before block `k` of it CTR
is `1 + k`, which is below 2^32. -/
def Obligations.NoBlockWithCounterZero : Prop :=
  ∀ (n : Nonce) (nbytes k : Nat) (s : State), nbytes ≤ maxKsBytes → k < blocksFor nbytes →
    (ksLoop n k nbytes { s with ctr := ctrInit }).2.ctr.toNat = 1 + k ∧ 1 + k < 4294967296

/-- R160: GENBITS with a key and nonce of the right lengths and a legal LEN completes: OUT is the closed-form keystream of
`ceil8(LEN)` bytes with the last one masked; CTR, DONE, ERR, RCNT as the rule says; nothing else the host can read changes. -/
def Obligations.GenbitsDeliversKeystream : Prop :=
  ∀ s : State, s.klen = 32#6 → s.nlen = 12#4 → ceil8 s.len.toNat ≤ maxKsBytes →
    ∃ t, exec .genbits s = .next t ∧
      t.out.length = ceil8 s.len.toNat ∧ t.outLen.toNat = ceil8 s.len.toNat ∧
      (∀ i, i < ceil8 s.len.toNat → t.out[i]? = some
        (if i + 1 = ceil8 s.len.toNat ∧ s.len.toNat % 8 ≠ 0
          then maskLast s.cfg.maskKeep (ksByte s.keyb s.nonb i) (s.len.toNat % 8) else ksByte s.keyb s.nonb i)) ∧
      t.ctr.toNat = (1 + (ceil8 s.len.toNat + 63) / 64) % 4294967296 ∧
      CallSucceeded s t ∧ t.rcnt = 0#32 ∧ CallFrame s t ∧ SameDrawScope s t ∧
      t.suffix = s.suffix ∧ t.swrap = s.swrap ∧ t.idx = s.idx ∧ t.haveReg = s.haveReg ∧ t.limit = s.limit

/-- R82, R159: after a successful GENBITS whose LEN is no multiple of 8, bit `j` of the final byte is the keystream's bit
where `MASK_KEEP` keeps it and 0 elsewhere, for both directions. -/
def Obligations.FinalByteIsMasked : Prop :=
  ∀ s t : State, exec .genbits s = .next t → t.done = true → s.len.toNat % 8 ≠ 0 →
    ∃ b, t.out[s.len.toNat / 8]? = some b ∧ t.out.length = s.len.toNat / 8 + 1 ∧
      ∀ j, j < 8 → b.getLsbD j =
        (keptBit s.cfg.maskKeep (s.len.toNat % 8) j && (ksByte s.keyb s.nonb (s.len.toNat / 8)).getLsbD j)

/-- R162: GENWORDS with a key and nonce of the right lengths and a legal LEN completes: OUT, read as little-endian words,
is the closed-form keystream of LEN words. -/
def Obligations.GenwordsDeliversWords : Prop :=
  ∀ s : State, s.klen = 32#6 → s.nlen = 12#4 → s.len.toNat ≤ 68719476720 →
    ∃ t, exec .genwords s = .next t ∧
      t.out.length = 4 * s.len.toNat ∧ t.outLen.toNat = 4 * s.len.toNat ∧
      wordsOfBytes t.out = (List.range s.len.toNat).map (ksWord s.keyb s.nonb) ∧
      t.ctr.toNat = (1 + (4 * s.len.toNat + 63) / 64) % 4294967296 ∧
      CallSucceeded s t ∧ t.rcnt = 0#32 ∧ CallFrame s t ∧ SameDrawScope s t ∧
      t.suffix = s.suffix ∧ t.swrap = s.swrap ∧ t.idx = s.idx ∧ t.haveReg = s.haveReg ∧ t.limit = s.limit

/-- R162: GENWORDS with LEN = w and GENBITS with LEN = 32w produce the same OUT. -/
def Obligations.GenwordsEqualsGenbits : Prop :=
  ∀ (s : State) (w : Nat), s.klen = 32#6 → s.nlen = 12#4 → w ≤ 68719476720 →
    ∃ t1 t2, exec .genwords { s with len := BitVec.ofNat 64 w } = .next t1 ∧
      exec .genbits { s with len := BitVec.ofNat 64 (32 * w) } = .next t2 ∧ t1.out = t2.out ∧ t1.outLen = t2.outLen

/-- R156: a shorter GENWORDS request returns the first words of a longer one. -/
def Obligations.ShorterRequestIsInitialPart : Prop :=
  ∀ (s : State) (w1 w2 : Nat), s.klen = 32#6 → s.nlen = 12#4 → w1 ≤ w2 → w2 ≤ 68719476720 →
    ∃ t1 t2, exec .genwords { s with len := BitVec.ofNat 64 w1 } = .next t1 ∧
      exec .genwords { s with len := BitVec.ofNat 64 w2 } = .next t2 ∧ t1.out = t2.out.take (4 * w1)

/-- R161: OUT after GENBITS is a function of KEYB, NONB, LEN and MASK_KEEP: nothing else of the two states matters. -/
def Obligations.GenbitsOutputDeterminedByInputs : Prop :=
  ∀ s1 s2 : State, s1.keyb = s2.keyb → s1.klen = s2.klen → s1.nonb = s2.nonb → s1.nlen = s2.nlen → s1.len = s2.len →
    s1.cfg.maskKeep = s2.cfg.maskKeep →
    ∃ t1 t2, exec .genbits s1 = .next t1 ∧ exec .genbits s2 = .next t2 ∧ t1.out = t2.out ∧ t1.outLen = t2.outLen ∧
      t1.done = t2.done ∧ t1.errCode = t2.errCode

/-- R270, R271, R283: GENBITS and GENWORDS with a key or nonce of the wrong length raise InvalidInputLength, whatever LEN
is; with the right lengths and too long a request they raise CounterExhausted. Nothing is produced, and CTR, SUFFIX, SWRAP,
IDX, HAVE and LIMIT stay as they were. -/
def Obligations.KeystreamCallErrors : Prop :=
  ∀ s : State,
    (¬ (s.klen = 32#6 ∧ s.nlen = 12#4) →
      (∃ t, exec .genbits s = .next t ∧ ErrorRecorded .invalidInputLength t ∧ CallFrame s t ∧ SameCounters s t) ∧
      (∃ t, exec .genwords s = .next t ∧ ErrorRecorded .invalidInputLength t ∧ CallFrame s t ∧ SameCounters s t)) ∧
    (s.klen = 32#6 ∧ s.nlen = 12#4 →
      (274877906880 < ceil8 s.len.toNat →
        ∃ t, exec .genbits s = .next t ∧ ErrorRecorded .counterExhausted t ∧ CallFrame s t ∧ SameCounters s t) ∧
      (68719476720 < s.len.toNat →
        ∃ t, exec .genwords s = .next t ∧ ErrorRecorded .counterExhausted t ∧ CallFrame s t ∧ SameCounters s t))

/-! ### Keystream Pool (spec/42_keystream_pool.md) -/

/-- R181: the working nonce, byte by byte in both orders; its word view for the little order; suffix 0 changes nothing. -/
def Obligations.WorkingNonceBytes : Prop :=
  ∀ (o : SuffixOrder) (n : Nonce) (sfx : Word),
    (∀ (i : Nat) (h : i < 8), (workingNonce o n sfx)[i] = n[i]) ∧
    (∀ (k : Nat) (h : k < 4), (workingNonce o n sfx)[8 + k] = n[8 + k] ^^^
      (match o with
        | .little => BitVec.ofNat 8 (sfx.toNat / 256 ^ k)
        | .big => BitVec.ofNat 8 (sfx.toNat / 256 ^ (3 - k)))) ∧
    nonceWord (workingNonce .little n sfx) 2 = nonceWord n 2 ^^^ sfx ∧ workingNonce o n 0#32 = n

/-- R182: distinct suffix values give distinct working nonces, so no two refills of a draw use one (key, nonce) pair. -/
def Obligations.WorkingNoncesDistinct : Prop :=
  ∀ (o : SuffixOrder) (n : Nonce) (s1 s2 : Word), workingNonce o n s1 = workingNonce o n s2 → s1 = s2

/-- R182, R183, R184: a refill with valid inputs and a suffix left fills every pool entry with the closed-form word of the
working nonce, advances SUFFIX, sets IDX to 0, HAVE to POOL_CAP and CTR, and writes no other register. -/
def Obligations.RefillFillsPool : Prop :=
  ∀ s : State, s.klen = 32#6 → s.nlen = 12#4 → s.swrap = false →
    ∃ t, refill s = .done () t ∧ t.wn = workingNonce s.cfg.suffixOrder s.nonb s.suffix ∧
      t.suffix.toNat = (s.suffix.toNat + 1) % 4294967296 ∧ t.swrap = decide (s.suffix.toNat = 4294967295) ∧
      (∀ j, j < s.cfg.poolCap → Memory.read t.pool j =
        some (ksWord s.keyb (workingNonce s.cfg.suffixOrder s.nonb s.suffix) j)) ∧
      t.idx.toNat = 0 ∧ t.haveReg.toNat = s.cfg.poolCap ∧ t.ctr.toNat = 1 + (s.cfg.poolCap + 15) / 16 ∧
      CallFrame s t ∧ SameResults s t ∧ SameStatus s t ∧ t.seen = s.seen ∧ t.limit = s.limit ∧ t.busy = s.busy

/-- R184, R273, R280: a refill with a wrong length raises PoolExhausted with SUB = 2; one after all 2^32 suffixes have been
used raises it with SUB = 6. -/
def Obligations.RefillErrors : Prop :=
  ∀ s : State,
    (¬ (s.klen = 32#6 ∧ s.nlen = 12#4) →
      ∃ t, refill s = .raised t ∧ t.errCode = 3#3 ∧ t.errSub = 2#3 ∧ ErrorRecorded (.poolExhausted .invalidInputLength) t ∧
        CallFrame s t ∧ SameCounters s t) ∧
    (s.klen = 32#6 ∧ s.nlen = 12#4 → s.swrap = true →
      ∃ t, refill s = .raised t ∧ t.errCode = 3#3 ∧ t.errSub = 6#3 ∧ ErrorRecorded (.poolExhausted .suffixExhausted) t ∧
        CallFrame s t ∧ SameCounters s t)

/-- R186, R188: the first POOL_CAP words of the stream are the keystream words of the nonce itself; from DRAWINIT, any
number `n` of NEXTWORDs up to `2^32 * POOL_CAP` returns W(0), …, W(n-1) of the closed form, and leaves IDX, HAVE and SUFFIX
as R188 says; the NEXTWORD after the last of them raises PoolExhausted, SUB = 6 (R184). -/
def Obligations.PoolDeliversTheStream : Prop :=
  ∀ s : State, s.klen = 32#6 → s.nlen = 12#4 →
    (∀ j, j < s.cfg.poolCap → streamWord s.cfg s.keyb s.nonb j = ksWord s.keyb s.nonb j) ∧
    (∀ n, n ≤ streamLength s.cfg →
      ∃ t, takeWords n (drawInit s) = .done ((List.range n).map (streamWord s.cfg s.keyb s.nonb)) t ∧
        (n ≠ 0 → t.idx.toNat = (n - 1) % s.cfg.poolCap + 1 ∧ t.haveReg.toNat = s.cfg.poolCap ∧
          t.suffix.toNat = ((n - 1) / s.cfg.poolCap + 1) % 4294967296)) ∧
    ∃ ws t u, takeWords (streamLength s.cfg) (drawInit s) = .done ws t ∧ nextWord t = .raised u ∧
      ErrorRecorded (.poolExhausted .suffixExhausted) u

/-! ### Unbiased Sampler (spec/43_unbiased_sampler.md) -/

/-- R200: LIMIT is `MAX_U32 - (MAX_U32 mod MODULUS)`, the largest multiple of MODULUS that is at most MAX_U32,
`MODULUS * (MAX_U32 div MODULUS)`; DRAWINIT computes it. -/
def Obligations.LimitIsLargestMultiple : Prop :=
  (∀ s : State, (drawInit s).limit = limitOf s.modulus) ∧
  ∀ m : Word, m ≠ 0#32 →
    (limitOf m).toNat = 4294967295 - 4294967295 % m.toNat ∧
    (limitOf m).toNat = m.toNat * (4294967295 / m.toNat) ∧ (limitOf m).toNat % m.toNat = 0 ∧
    ∀ k, m.toNat * k ≤ 4294967295 → m.toNat * k ≤ (limitOf m).toNat

/-- R204: of the 2^32 words `MODULUS * (MAX_U32 div MODULUS) + 1` are accepted; each value below MODULUS has exactly
`MAX_U32 div MODULUS` of them, and the value 0 has one more, the word LIMIT. -/
def Obligations.AcceptedPreimageCounts : Prop :=
  ∀ (m : Word) (v : Nat), m ≠ 0#32 → v < m.toNat →
    acceptWord (limitOf m) (limitOf m) = true ∧ valueOf (limitOf m) m = 0#32 ∧
    ((Finset.range 4294967296).filter fun r => acceptWord (BitVec.ofNat 32 r) (limitOf m) = true).card =
      m.toNat * (4294967295 / m.toNat) + 1 ∧
    ((Finset.range 4294967296).filter fun r =>
      acceptWord (BitVec.ofNat 32 r) (limitOf m) = true ∧ (valueOf (BitVec.ofNat 32 r) m).toNat = v).card =
      4294967295 / m.toNat + if v = 0 then 1 else 0

/-- R202, R203, R276: SAMPLE takes the next word; one at most LIMIT is accepted (equality too) and gives `r mod MODULUS`, one
above it is discarded and SAMPLE goes on with the next; a returned value is below MODULUS; and SAMPLE writes no result, no
flag and no argument. -/
def Obligations.SampleRejectsAboveLimit : Prop :=
  (∀ (fuel : Nat) (s t : State) (r : Word), nextWord s = .done r t →
    sampleLoop (fuel + 1) s =
      if r.toNat ≤ t.limit.toNat then .done (BitVec.ofNat 32 (r.toNat % t.modulus.toNat)) t else sampleLoop fuel t) ∧
  ∀ (s t : State) (v : Word), s.modulus ≠ 0#32 → sample s = .done v t →
    v.toNat < s.modulus.toNat ∧ CallFrame s t ∧ SameResults s t ∧ SameStatus s t ∧ t.seen = s.seen ∧ t.limit = s.limit

/-! ### Unique Draw Engine (spec/44_unique_draw.md) -/

/-- R215, R272: DRAW with COUNT = 0, COUNT > MODULUS or MODULUS > SEEN_CAP raises InvalidParameters, with or without a key;
CTR, SUFFIX, SWRAP, IDX, HAVE and LIMIT stay as they were. -/
def Obligations.DrawParameterErrors : Prop :=
  ∀ s : State, (s.count.toNat = 0 ∨ s.modulus.toNat < s.count.toNat ∨ s.cfg.seenCap < s.modulus.toNat) →
    ∃ t, exec .draw s = .next t ∧ ErrorRecorded .invalidParameters t ∧ CallFrame s t ∧ SameCounters s t

/-- R184, R218, R280: DRAW with good parameters and a key or nonce of the wrong length raises PoolExhausted with SUB = 2 at
its first refill, after DRAWINIT (R216): LIMIT is that of MODULUS (R200), SUFFIX, SWRAP, IDX and HAVE are 0, CTR is
unchanged. -/
def Obligations.DrawWithoutKeyFails : Prop :=
  ∀ s : State, 1 ≤ s.count.toNat → s.count.toNat ≤ s.modulus.toNat → s.modulus.toNat ≤ s.cfg.seenCap →
    ¬ (s.klen = 32#6 ∧ s.nlen = 12#4) →
    ∃ t, exec .draw s = .next t ∧ t.errCode.toNat + 16 * t.errSub.toNat = 0x23 ∧
      ErrorRecorded (.poolExhausted .invalidInputLength) t ∧ CallFrame s t ∧ t.limit = limitOf s.modulus ∧
      t.suffix = 0#32 ∧ t.swrap = false ∧ t.idx = 0#32 ∧ t.haveReg = 0#32 ∧ t.ctr = s.ctr

/-- R220, R218: the closed characterisation of DRAW. If the word that brings the number of distinct candidates to COUNT is
word `n - 1` of the stream, DRAW completes: RES is the first COUNT distinct candidates in order of first occurrence, RCNT =
COUNT; IDX, HAVE, SUFFIX and CTR are as R220 says, SWRAP as R28 and R182 say, and LIMIT is what DRAWINIT computed (R200,
R216). -/
def Obligations.DrawClosedForm : Prop :=
  ∀ (s : State) (n : Nat), s.klen = 32#6 → s.nlen = 12#4 → 1 ≤ s.count.toNat → s.count.toNat ≤ s.modulus.toNat →
    s.modulus.toNat ≤ s.cfg.seenCap → 1 ≤ n → n ≤ streamLength s.cfg →
    (drawnAfter s.cfg s.keyb s.nonb s.modulus n).length = s.count.toNat →
    (drawnAfter s.cfg s.keyb s.nonb s.modulus (n - 1)).length < s.count.toNat →
    ∃ t, exec .draw s = .next t ∧ CallSucceeded s t ∧ t.rcnt = s.count ∧
      (∀ i, Memory.read t.res i = (drawnAfter s.cfg s.keyb s.nonb s.modulus n)[i]?) ∧
      t.out = [] ∧ t.outLen = 0#64 ∧ t.limit = limitOf s.modulus ∧
      t.idx.toNat = (n - 1) % s.cfg.poolCap + 1 ∧ t.haveReg.toNat = s.cfg.poolCap ∧
      t.suffix.toNat = ((n - 1) / s.cfg.poolCap + 1) % 4294967296 ∧
      t.swrap = decide ((n - 1) / s.cfg.poolCap + 1 = 4294967296) ∧
      t.ctr.toNat = 1 + (s.cfg.poolCap + 15) / 16 ∧ CallFrame s t

/-- R218, R220, R273, R280: DRAW with good parameters and lengths ends in one of two ways, told apart by its word stream.
If the stream has COUNT distinct candidates it succeeds with RCNT = COUNT; if it has fewer, it raises PoolExhausted with
SUB = 6 and leaves SUFFIX = 0, SWRAP = 1 (R182) and IDX = POOL_CAP (R186). LIMIT (R200, R216), HAVE and CTR (R184) and the
frame are the same in both. -/
def Obligations.DrawOutcomeByStream : Prop :=
  ∀ s : State, s.klen = 32#6 → s.nlen = 12#4 → 1 ≤ s.count.toNat → s.count.toNat ≤ s.modulus.toNat →
    s.modulus.toNat ≤ s.cfg.seenCap →
    ∃ t, exec .draw s = .next t ∧ CallFrame s t ∧ t.limit = limitOf s.modulus ∧ t.haveReg.toNat = s.cfg.poolCap ∧
      t.ctr.toNat = 1 + (s.cfg.poolCap + 15) / 16 ∧
      if s.count.toNat ≤ (drawnAfter s.cfg s.keyb s.nonb s.modulus (streamLength s.cfg)).length then
        CallSucceeded s t ∧ t.rcnt = s.count
      else
        t.errCode.toNat + 16 * t.errSub.toNat = 0x63 ∧ ErrorRecorded (.poolExhausted .suffixExhausted) t ∧
        t.suffix = 0#32 ∧ t.swrap = true ∧ t.idx.toNat = s.cfg.poolCap

/-- R219 (a) to (d): after a successful DRAW, RCNT = COUNT and RES lists COUNT pairwise distinct values below MODULUS. -/
def Obligations.DrawResultsDistinctInRange : Prop :=
  ∀ s t : State, exec .draw s = .next t → t.done = true →
    t.rcnt = s.count ∧ ∃ vs : List Word, (∀ i, Memory.read t.res i = vs[i]?) ∧ vs.length = s.count.toNat ∧ vs.Nodup ∧
      ∀ v ∈ vs, v.toNat < s.modulus.toNat

/-- R219 (g): after a successful DRAW with COUNT = MODULUS, RES is a permutation of 0, …, MODULUS - 1. -/
def Obligations.DrawAllIsPermutation : Prop :=
  ∀ s t : State, exec .draw s = .next t → t.done = true → s.count = s.modulus →
    ∃ vs : List Word, (∀ i, Memory.read t.res i = vs[i]?) ∧
      (vs.map BitVec.toNat).Perm (List.range s.modulus.toNat)

/-- R219 (g), R228: for every key and nonce, DRAW of (1, 1) completes with RES = [0] after one word. -/
def Obligations.DrawOneOfOne : Prop :=
  ∀ s : State, s.klen = 32#6 → s.nlen = 12#4 → s.count = 1#32 → s.modulus = 1#32 →
    ∃ t, exec .draw s = .next t ∧ CallSucceeded s t ∧ t.rcnt = 1#32 ∧ Memory.read t.res 0 = some 0#32 ∧
      (∀ i, 1 ≤ i → Memory.read t.res i = none) ∧ t.limit.toNat = 4294967295 ∧ t.idx = 1#32 ∧ t.suffix = 1#32 ∧
      t.haveReg.toNat = s.cfg.poolCap ∧ CallFrame s t

/-- R219 (e), (f): the outcome and the result of DRAW are a function of the key, the nonce, COUNT, MODULUS, POOL_CAP and
SUFFIX_ORDER: nothing else of the two states matters, MASK_KEEP included; of SEEN_CAP no more than whether PARAMCHECK finds
MODULUS above it (R215). -/
def Obligations.DrawDeterminedByInputs : Prop :=
  ∀ s1 s2 : State, s1.keyb = s2.keyb → s1.klen = s2.klen → s1.nonb = s2.nonb → s1.nlen = s2.nlen →
    s1.count = s2.count → s1.modulus = s2.modulus → s1.cfg.poolCap = s2.cfg.poolCap →
    s1.cfg.suffixOrder = s2.cfg.suffixOrder →
    (s1.modulus.toNat ≤ s1.cfg.seenCap ↔ s2.modulus.toNat ≤ s2.cfg.seenCap) →
    ∃ t1 t2, exec .draw s1 = .next t1 ∧ exec .draw s2 = .next t2 ∧ t1.done = t2.done ∧ t1.errCode = t2.errCode ∧
      t1.errSub = t2.errSub ∧ t1.rcnt = t2.rcnt ∧ ∀ i, Memory.read t1.res i = Memory.read t2.res i

/-- R219 (h): with one key, nonce and MODULUS, the result of the smaller COUNT is the beginning of the result of the
larger. -/
def Obligations.DrawSmallerIsInitialPart : Prop :=
  ∀ (s t1 t2 : State) (c1 c2 : Word), c1.toNat ≤ c2.toNat →
    exec .draw { s with count := c1 } = .next t1 → t1.done = true →
    exec .draw { s with count := c2 } = .next t2 → t2.done = true →
    ∀ i, i < c1.toNat → Memory.read t1.res i = Memory.read t2.res i

/-! ### The whole machine -/

/-- R226, R327, R60: every command, from every state, answers a next state: no loop runs out of fuel, and no unspecified
entry is ever read. -/
def Obligations.EveryCommandCompletes : Prop := ∀ (i : Instr) (s : State), ∃ t, exec i s = .next t

/-- R22, R23, R34 to R36, R61 (d) and (e): KEYB and KLEN are written only by KCLR, KPUSH and SRST, NONB and NLEN only by
NCLR, NPUSH and SRST, LEN only by LENLO, LENHI and SRST, COUNT and MODULUS only by SETCNT, SETMOD and SRST; so by no call. -/
def Obligations.InputsWrittenOnlyByTheirCommands : Prop :=
  ∀ (i : Instr) (s t : State), exec i s = .next t → i ≠ .srst →
    ((i ≠ .kclr ∧ ∀ b, i ≠ .kpush b) → SameKey s t) ∧ ((i ≠ .nclr ∧ ∀ b, i ≠ .npush b) → SameNonce s t) ∧
    (((∀ v, i ≠ .lenlo v) ∧ ∀ v, i ≠ .lenhi v) → t.len = s.len) ∧ ((∀ v, i ≠ .setcnt v) → t.count = s.count) ∧
    ((∀ v, i ≠ .setmod v) → t.modulus = s.modulus) ∧ SameModel s t

/-- R250: no setup command writes ERR, ESTICKY, DONE, OUT, OUTLEN, RES, RCNT, CTR, SUFFIX, SWRAP, IDX, HAVE, LIMIT, POOL,
SEEN, WN, S or X; every one of them completes. -/
def Obligations.SetupCommandsKeepResults : Prop :=
  ∀ (i : Instr) (s : State), isCallCommand i = false → i ≠ .srst → ∃ t, exec i s = .next t ∧ SetupFrame s t

/-- R257, R281: a call ends either with DONE = 1 and ERR.CODE = 0, or with DONE = 0, an error code of 1 to 4, ESTICKY = 1 and
no result: OUT empty, RCNT 0, every read of the RES window refused. -/
def Obligations.NoPartialResults : Prop :=
  ∀ (i : Instr) (s t : State), isCallCommand i = true → exec i s = .next t →
    t.busy = false ∧
    ((t.done = true ∧ t.errCode = 0#3 ∧ t.errSub = 0#3) ∨
      (t.done = false ∧ 1 ≤ t.errCode.toNat ∧ t.errCode.toNat ≤ 4 ∧ t.esticky = true ∧ t.out = [] ∧ t.outLen = 0#64 ∧
        t.rcnt = 0#32 ∧ ∀ a : RdAddr, 16 ≤ a.toNat → t.rdTransfer a = some ⟨false, 0#32⟩))

/-- R286: ESTICKY is set by every `raise` and every illegal command; a failed call leaves it set and a successful one as it
was, so CALLSTART does not clear it; reset clears it, and no command but SRST does. -/
def Obligations.StickyErrorFlag : Prop :=
  (∀ (e : CallError) (s : State),
    (raise e s).esticky = true ∧ (illegalCommand s).esticky = true ∧ (callStart s).esticky = s.esticky ∧
    (resetCore s).esticky = false) ∧
  (∀ (i : Instr) (s t : State), isCallCommand i = true → exec i s = .next t →
    t.esticky = if t.done then s.esticky else true) ∧
  ∀ (i : Instr) (s t : State), exec i s = .next t → s.esticky = true → t.esticky = false → i = .srst

/-- R61 and the rules BetweenCommands cites: the invariant of the states between commands is kept by every step, whatever
the host does. -/
def Obligations.InvariantKeptByEveryStep : Prop :=
  ∀ s t : State, BetweenCommands s → step s = .next t → BetweenCommands t

/-- R65: the invariant holds after reset, for every configuration, and so at `State.reset`. -/
def Obligations.InvariantAfterReset : Prop := (∀ c, BetweenCommands (State.resetWith c)) ∧ BetweenCommands State.reset

/-- R50, R52, R262: in a state between commands, the RD port serves at 0x0000 .. 0x000F the register that R50 names at each
address (STATUS and ERR are the words StatusAndErrBits describes bit by bit) and at 0x8000 + i the entry RES[i] for i < RCNT;
it refuses every other address with `ok` = 0 and `data` = 0. -/
def Obligations.ReadPortServes : Prop :=
  ∀ s : State, BetweenCommands s →
    (s.rdTransfer 0x0000#16 = some ⟨true, s.statusWord⟩ ∧ s.rdTransfer 0x0001#16 = some ⟨true, s.errWord⟩ ∧
      s.rdTransfer 0x0002#16 = some ⟨true, BitVec.ofNat 32 s.klen.toNat⟩ ∧
      s.rdTransfer 0x0003#16 = some ⟨true, BitVec.ofNat 32 s.nlen.toNat⟩ ∧
      s.rdTransfer 0x0004#16 = some ⟨true, BitVec.ofNat 32 (s.len.toNat % 4294967296)⟩ ∧
      s.rdTransfer 0x0005#16 = some ⟨true, BitVec.ofNat 32 (s.len.toNat / 4294967296)⟩ ∧
      s.rdTransfer 0x0006#16 = some ⟨true, s.count⟩ ∧ s.rdTransfer 0x0007#16 = some ⟨true, s.modulus⟩ ∧
      s.rdTransfer 0x0008#16 = some ⟨true, s.rcnt⟩ ∧
      s.rdTransfer 0x0009#16 = some ⟨true, BitVec.ofNat 32 (s.outLen.toNat % 4294967296)⟩ ∧
      s.rdTransfer 0x000A#16 = some ⟨true, BitVec.ofNat 32 (s.outLen.toNat / 4294967296)⟩ ∧
      s.rdTransfer 0x000B#16 = some ⟨true, s.ctr⟩ ∧ s.rdTransfer 0x000C#16 = some ⟨true, s.suffix⟩ ∧
      s.rdTransfer 0x000D#16 = some ⟨true, s.idx⟩ ∧ s.rdTransfer 0x000E#16 = some ⟨true, s.haveReg⟩ ∧
      s.rdTransfer 0x000F#16 = some ⟨true, s.limit⟩) ∧
    ∀ a : RdAddr, 15 < a.toNat →
      (32768 ≤ a.toNat → a.toNat - 32768 < s.rcnt.toNat →
        ∃ v, Memory.read s.res (a.toNat - 32768) = some v ∧ s.rdTransfer a = some ⟨true, v⟩) ∧
      (¬ (32768 ≤ a.toNat ∧ a.toNat - 32768 < s.rcnt.toNat) → s.rdTransfer a = some ⟨false, 0#32⟩)

/-- R50: the bits of STATUS and ERR, and their zero fields. -/
def Obligations.StatusAndErrBits : Prop :=
  ∀ s : State,
    (s.statusWord.getLsbD 0 = s.busy ∧ s.statusWord.getLsbD 1 = s.done ∧
      s.statusWord.getLsbD 2 = decide (s.errCode.toNat ≠ 0) ∧ s.statusWord.getLsbD 3 = s.esticky ∧
      s.statusWord.getLsbD 4 = decide (s.klen.toNat = 32) ∧ s.statusWord.getLsbD 5 = decide (s.nlen.toNat = 12) ∧
      s.statusWord.getLsbD 6 = s.swrap ∧ ∀ i, 7 ≤ i → s.statusWord.getLsbD i = false) ∧
    (∀ i, i < 3 → s.errWord.getLsbD i = s.errCode.getLsbD i ∧ s.errWord.getLsbD (4 + i) = s.errSub.getLsbD i) ∧
    s.errWord.getLsbD 3 = false ∧ ∀ i, 7 ≤ i → s.errWord.getLsbD i = false

/-- R55, R250, R262, R263: the replies of the RD and OUT ports depend on the readable fields alone: two states that agree on
them, and differ in the key, the nonce, S, X, WN, POOL, SEEN, RES at and above RCNT or the configuration, give the same
replies everywhere; and no setup command and no SRST, whatever it pushes, lets the host tell them apart afterwards. -/
def Obligations.PortsRevealNoSecrets : Prop :=
  ∀ s t : State, SameReadable s t →
    (∀ a : RdAddr, t.rdTransfer a = s.rdTransfer a) ∧ (∀ k, t.outTransfer k = s.outTransfer k) ∧
    ∀ i : Instr, isCallCommand i = false →
      ∃ s' t', exec i s = .next s' ∧ exec i t = .next t' ∧ SameReadable s' t'
end

