-- ==== Sys2Proof/Laws/State.lean ====
section
/-! SUPPORT. What every named update of the state leaves in every field, one lemma per field, true by unfolding once: no
later proof unfolds a record update. -/

namespace Sys2Proof.Machine

/-! ### `setOut` (R33) -/

@[simp] theorem setOut_cfg (bs : List Byte) (s : State) : (setOut bs s).cfg = s.cfg := rfl
@[simp] theorem setOut_host (bs : List Byte) (s : State) : (setOut bs s).host = s.host := rfl
@[simp] theorem setOut_freeNext (bs : List Byte) (s : State) : (setOut bs s).freeNext = s.freeNext := rfl
@[simp] theorem setOut_keyb (bs : List Byte) (s : State) : (setOut bs s).keyb = s.keyb := rfl
@[simp] theorem setOut_klen (bs : List Byte) (s : State) : (setOut bs s).klen = s.klen := rfl
@[simp] theorem setOut_nonb (bs : List Byte) (s : State) : (setOut bs s).nonb = s.nonb := rfl
@[simp] theorem setOut_nlen (bs : List Byte) (s : State) : (setOut bs s).nlen = s.nlen := rfl
@[simp] theorem setOut_len (bs : List Byte) (s : State) : (setOut bs s).len = s.len := rfl
@[simp] theorem setOut_count (bs : List Byte) (s : State) : (setOut bs s).count = s.count := rfl
@[simp] theorem setOut_modulus (bs : List Byte) (s : State) : (setOut bs s).modulus = s.modulus := rfl
@[simp] theorem setOut_sreg (bs : List Byte) (s : State) : (setOut bs s).sreg = s.sreg := rfl
@[simp] theorem setOut_xreg (bs : List Byte) (s : State) : (setOut bs s).xreg = s.xreg := rfl
@[simp] theorem setOut_ctr (bs : List Byte) (s : State) : (setOut bs s).ctr = s.ctr := rfl
@[simp] theorem setOut_wn (bs : List Byte) (s : State) : (setOut bs s).wn = s.wn := rfl
@[simp] theorem setOut_suffix (bs : List Byte) (s : State) : (setOut bs s).suffix = s.suffix := rfl
@[simp] theorem setOut_swrap (bs : List Byte) (s : State) : (setOut bs s).swrap = s.swrap := rfl
@[simp] theorem setOut_pool (bs : List Byte) (s : State) : (setOut bs s).pool = s.pool := rfl
@[simp] theorem setOut_idx (bs : List Byte) (s : State) : (setOut bs s).idx = s.idx := rfl
@[simp] theorem setOut_haveReg (bs : List Byte) (s : State) : (setOut bs s).haveReg = s.haveReg := rfl
@[simp] theorem setOut_limit (bs : List Byte) (s : State) : (setOut bs s).limit = s.limit := rfl
@[simp] theorem setOut_seen (bs : List Byte) (s : State) : (setOut bs s).seen = s.seen := rfl
@[simp] theorem setOut_res (bs : List Byte) (s : State) : (setOut bs s).res = s.res := rfl
@[simp] theorem setOut_rcnt (bs : List Byte) (s : State) : (setOut bs s).rcnt = s.rcnt := rfl
@[simp] theorem setOut_out (bs : List Byte) (s : State) : (setOut bs s).out = bs := rfl
@[simp] theorem setOut_outLen (bs : List Byte) (s : State) : (setOut bs s).outLen = BitVec.ofNat 64 bs.length := rfl
@[simp] theorem setOut_busy (bs : List Byte) (s : State) : (setOut bs s).busy = s.busy := rfl
@[simp] theorem setOut_done (bs : List Byte) (s : State) : (setOut bs s).done = s.done := rfl
@[simp] theorem setOut_errCode (bs : List Byte) (s : State) : (setOut bs s).errCode = s.errCode := rfl
@[simp] theorem setOut_errSub (bs : List Byte) (s : State) : (setOut bs s).errSub = s.errSub := rfl
@[simp] theorem setOut_esticky (bs : List Byte) (s : State) : (setOut bs s).esticky = s.esticky := rfl

/-! ### `clearResults` (R32) -/

@[simp] theorem clearResults_cfg (s : State) : (clearResults s).cfg = s.cfg := rfl
@[simp] theorem clearResults_host (s : State) : (clearResults s).host = s.host := rfl
@[simp] theorem clearResults_freeNext (s : State) : (clearResults s).freeNext = s.freeNext := rfl
@[simp] theorem clearResults_keyb (s : State) : (clearResults s).keyb = s.keyb := rfl
@[simp] theorem clearResults_klen (s : State) : (clearResults s).klen = s.klen := rfl
@[simp] theorem clearResults_nonb (s : State) : (clearResults s).nonb = s.nonb := rfl
@[simp] theorem clearResults_nlen (s : State) : (clearResults s).nlen = s.nlen := rfl
@[simp] theorem clearResults_len (s : State) : (clearResults s).len = s.len := rfl
@[simp] theorem clearResults_count (s : State) : (clearResults s).count = s.count := rfl
@[simp] theorem clearResults_modulus (s : State) : (clearResults s).modulus = s.modulus := rfl
@[simp] theorem clearResults_sreg (s : State) : (clearResults s).sreg = s.sreg := rfl
@[simp] theorem clearResults_xreg (s : State) : (clearResults s).xreg = s.xreg := rfl
@[simp] theorem clearResults_ctr (s : State) : (clearResults s).ctr = s.ctr := rfl
@[simp] theorem clearResults_wn (s : State) : (clearResults s).wn = s.wn := rfl
@[simp] theorem clearResults_suffix (s : State) : (clearResults s).suffix = s.suffix := rfl
@[simp] theorem clearResults_swrap (s : State) : (clearResults s).swrap = s.swrap := rfl
@[simp] theorem clearResults_pool (s : State) : (clearResults s).pool = s.pool := rfl
@[simp] theorem clearResults_idx (s : State) : (clearResults s).idx = s.idx := rfl
@[simp] theorem clearResults_haveReg (s : State) : (clearResults s).haveReg = s.haveReg := rfl
@[simp] theorem clearResults_limit (s : State) : (clearResults s).limit = s.limit := rfl
@[simp] theorem clearResults_seen (s : State) : (clearResults s).seen = s.seen := rfl
@[simp] theorem clearResults_res (s : State) : (clearResults s).res = [] := rfl
@[simp] theorem clearResults_rcnt (s : State) : (clearResults s).rcnt = 0#32 := rfl
@[simp] theorem clearResults_out (s : State) : (clearResults s).out = s.out := rfl
@[simp] theorem clearResults_outLen (s : State) : (clearResults s).outLen = s.outLen := rfl
@[simp] theorem clearResults_busy (s : State) : (clearResults s).busy = s.busy := rfl
@[simp] theorem clearResults_done (s : State) : (clearResults s).done = s.done := rfl
@[simp] theorem clearResults_errCode (s : State) : (clearResults s).errCode = s.errCode := rfl
@[simp] theorem clearResults_errSub (s : State) : (clearResults s).errSub = s.errSub := rfl
@[simp] theorem clearResults_esticky (s : State) : (clearResults s).esticky = s.esticky := rfl

/-! ### `complete` (R37) -/

@[simp] theorem complete_cfg (s : State) : (complete s).cfg = s.cfg := rfl
@[simp] theorem complete_host (s : State) : (complete s).host = s.host := rfl
@[simp] theorem complete_freeNext (s : State) : (complete s).freeNext = s.freeNext := rfl
@[simp] theorem complete_keyb (s : State) : (complete s).keyb = s.keyb := rfl
@[simp] theorem complete_klen (s : State) : (complete s).klen = s.klen := rfl
@[simp] theorem complete_nonb (s : State) : (complete s).nonb = s.nonb := rfl
@[simp] theorem complete_nlen (s : State) : (complete s).nlen = s.nlen := rfl
@[simp] theorem complete_len (s : State) : (complete s).len = s.len := rfl
@[simp] theorem complete_count (s : State) : (complete s).count = s.count := rfl
@[simp] theorem complete_modulus (s : State) : (complete s).modulus = s.modulus := rfl
@[simp] theorem complete_sreg (s : State) : (complete s).sreg = s.sreg := rfl
@[simp] theorem complete_xreg (s : State) : (complete s).xreg = s.xreg := rfl
@[simp] theorem complete_ctr (s : State) : (complete s).ctr = s.ctr := rfl
@[simp] theorem complete_wn (s : State) : (complete s).wn = s.wn := rfl
@[simp] theorem complete_suffix (s : State) : (complete s).suffix = s.suffix := rfl
@[simp] theorem complete_swrap (s : State) : (complete s).swrap = s.swrap := rfl
@[simp] theorem complete_pool (s : State) : (complete s).pool = s.pool := rfl
@[simp] theorem complete_idx (s : State) : (complete s).idx = s.idx := rfl
@[simp] theorem complete_haveReg (s : State) : (complete s).haveReg = s.haveReg := rfl
@[simp] theorem complete_limit (s : State) : (complete s).limit = s.limit := rfl
@[simp] theorem complete_seen (s : State) : (complete s).seen = s.seen := rfl
@[simp] theorem complete_res (s : State) : (complete s).res = s.res := rfl
@[simp] theorem complete_rcnt (s : State) : (complete s).rcnt = s.rcnt := rfl
@[simp] theorem complete_out (s : State) : (complete s).out = s.out := rfl
@[simp] theorem complete_outLen (s : State) : (complete s).outLen = s.outLen := rfl
@[simp] theorem complete_busy (s : State) : (complete s).busy = false := rfl
@[simp] theorem complete_done (s : State) : (complete s).done = s.done := rfl
@[simp] theorem complete_errCode (s : State) : (complete s).errCode = s.errCode := rfl
@[simp] theorem complete_errSub (s : State) : (complete s).errSub = s.errSub := rfl
@[simp] theorem complete_esticky (s : State) : (complete s).esticky = s.esticky := rfl

/-! ### CALLSTART (R255) -/

@[simp] theorem callStart_cfg (s : State) : (callStart s).cfg = s.cfg := rfl
@[simp] theorem callStart_host (s : State) : (callStart s).host = s.host := rfl
@[simp] theorem callStart_freeNext (s : State) : (callStart s).freeNext = s.freeNext := rfl
@[simp] theorem callStart_keyb (s : State) : (callStart s).keyb = s.keyb := rfl
@[simp] theorem callStart_klen (s : State) : (callStart s).klen = s.klen := rfl
@[simp] theorem callStart_nonb (s : State) : (callStart s).nonb = s.nonb := rfl
@[simp] theorem callStart_nlen (s : State) : (callStart s).nlen = s.nlen := rfl
@[simp] theorem callStart_len (s : State) : (callStart s).len = s.len := rfl
@[simp] theorem callStart_count (s : State) : (callStart s).count = s.count := rfl
@[simp] theorem callStart_modulus (s : State) : (callStart s).modulus = s.modulus := rfl
@[simp] theorem callStart_sreg (s : State) : (callStart s).sreg = s.sreg := rfl
@[simp] theorem callStart_xreg (s : State) : (callStart s).xreg = s.xreg := rfl
@[simp] theorem callStart_ctr (s : State) : (callStart s).ctr = s.ctr := rfl
@[simp] theorem callStart_wn (s : State) : (callStart s).wn = s.wn := rfl
@[simp] theorem callStart_suffix (s : State) : (callStart s).suffix = s.suffix := rfl
@[simp] theorem callStart_swrap (s : State) : (callStart s).swrap = s.swrap := rfl
@[simp] theorem callStart_pool (s : State) : (callStart s).pool = s.pool := rfl
@[simp] theorem callStart_idx (s : State) : (callStart s).idx = s.idx := rfl
@[simp] theorem callStart_haveReg (s : State) : (callStart s).haveReg = s.haveReg := rfl
@[simp] theorem callStart_limit (s : State) : (callStart s).limit = s.limit := rfl
@[simp] theorem callStart_seen (s : State) : (callStart s).seen = s.seen := rfl
@[simp] theorem callStart_res (s : State) : (callStart s).res = [] := rfl
@[simp] theorem callStart_rcnt (s : State) : (callStart s).rcnt = 0#32 := rfl
@[simp] theorem callStart_out (s : State) : (callStart s).out = [] := rfl
@[simp] theorem callStart_outLen (s : State) : (callStart s).outLen = 0#64 := rfl
@[simp] theorem callStart_busy (s : State) : (callStart s).busy = true := rfl
@[simp] theorem callStart_done (s : State) : (callStart s).done = false := rfl
@[simp] theorem callStart_errCode (s : State) : (callStart s).errCode = 0#3 := rfl
@[simp] theorem callStart_errSub (s : State) : (callStart s).errSub = 0#3 := rfl
@[simp] theorem callStart_esticky (s : State) : (callStart s).esticky = s.esticky := rfl

/-! ### CALLOK (R256) -/

@[simp] theorem callOk_cfg (s : State) : (callOk s).cfg = s.cfg := rfl
@[simp] theorem callOk_host (s : State) : (callOk s).host = s.host := rfl
@[simp] theorem callOk_freeNext (s : State) : (callOk s).freeNext = s.freeNext := rfl
@[simp] theorem callOk_keyb (s : State) : (callOk s).keyb = s.keyb := rfl
@[simp] theorem callOk_klen (s : State) : (callOk s).klen = s.klen := rfl
@[simp] theorem callOk_nonb (s : State) : (callOk s).nonb = s.nonb := rfl
@[simp] theorem callOk_nlen (s : State) : (callOk s).nlen = s.nlen := rfl
@[simp] theorem callOk_len (s : State) : (callOk s).len = s.len := rfl
@[simp] theorem callOk_count (s : State) : (callOk s).count = s.count := rfl
@[simp] theorem callOk_modulus (s : State) : (callOk s).modulus = s.modulus := rfl
@[simp] theorem callOk_sreg (s : State) : (callOk s).sreg = s.sreg := rfl
@[simp] theorem callOk_xreg (s : State) : (callOk s).xreg = s.xreg := rfl
@[simp] theorem callOk_ctr (s : State) : (callOk s).ctr = s.ctr := rfl
@[simp] theorem callOk_wn (s : State) : (callOk s).wn = s.wn := rfl
@[simp] theorem callOk_suffix (s : State) : (callOk s).suffix = s.suffix := rfl
@[simp] theorem callOk_swrap (s : State) : (callOk s).swrap = s.swrap := rfl
@[simp] theorem callOk_pool (s : State) : (callOk s).pool = s.pool := rfl
@[simp] theorem callOk_idx (s : State) : (callOk s).idx = s.idx := rfl
@[simp] theorem callOk_haveReg (s : State) : (callOk s).haveReg = s.haveReg := rfl
@[simp] theorem callOk_limit (s : State) : (callOk s).limit = s.limit := rfl
@[simp] theorem callOk_seen (s : State) : (callOk s).seen = s.seen := rfl
@[simp] theorem callOk_res (s : State) : (callOk s).res = s.res := rfl
@[simp] theorem callOk_rcnt (s : State) : (callOk s).rcnt = s.rcnt := rfl
@[simp] theorem callOk_out (s : State) : (callOk s).out = s.out := rfl
@[simp] theorem callOk_outLen (s : State) : (callOk s).outLen = s.outLen := rfl
@[simp] theorem callOk_busy (s : State) : (callOk s).busy = false := rfl
@[simp] theorem callOk_done (s : State) : (callOk s).done = true := rfl
@[simp] theorem callOk_errCode (s : State) : (callOk s).errCode = s.errCode := rfl
@[simp] theorem callOk_errSub (s : State) : (callOk s).errSub = s.errSub := rfl
@[simp] theorem callOk_esticky (s : State) : (callOk s).esticky = s.esticky := rfl

/-! ### S and X unspecified (R24) -/

@[simp] theorem forgetBlockScope_cfg (s : State) : (forgetBlockScope s).cfg = s.cfg := rfl
@[simp] theorem forgetBlockScope_host (s : State) : (forgetBlockScope s).host = s.host := rfl
@[simp] theorem forgetBlockScope_freeNext (s : State) : (forgetBlockScope s).freeNext = s.freeNext + 1 := rfl
@[simp] theorem forgetBlockScope_keyb (s : State) : (forgetBlockScope s).keyb = s.keyb := rfl
@[simp] theorem forgetBlockScope_klen (s : State) : (forgetBlockScope s).klen = s.klen := rfl
@[simp] theorem forgetBlockScope_nonb (s : State) : (forgetBlockScope s).nonb = s.nonb := rfl
@[simp] theorem forgetBlockScope_nlen (s : State) : (forgetBlockScope s).nlen = s.nlen := rfl
@[simp] theorem forgetBlockScope_len (s : State) : (forgetBlockScope s).len = s.len := rfl
@[simp] theorem forgetBlockScope_count (s : State) : (forgetBlockScope s).count = s.count := rfl
@[simp] theorem forgetBlockScope_modulus (s : State) : (forgetBlockScope s).modulus = s.modulus := rfl
@[simp] theorem forgetBlockScope_sreg (s : State) : (forgetBlockScope s).sreg = freeBlock s.freeNext 0 := rfl
@[simp] theorem forgetBlockScope_xreg (s : State) : (forgetBlockScope s).xreg = freeBlock s.freeNext 16 := rfl
@[simp] theorem forgetBlockScope_ctr (s : State) : (forgetBlockScope s).ctr = s.ctr := rfl
@[simp] theorem forgetBlockScope_wn (s : State) : (forgetBlockScope s).wn = s.wn := rfl
@[simp] theorem forgetBlockScope_suffix (s : State) : (forgetBlockScope s).suffix = s.suffix := rfl
@[simp] theorem forgetBlockScope_swrap (s : State) : (forgetBlockScope s).swrap = s.swrap := rfl
@[simp] theorem forgetBlockScope_pool (s : State) : (forgetBlockScope s).pool = s.pool := rfl
@[simp] theorem forgetBlockScope_idx (s : State) : (forgetBlockScope s).idx = s.idx := rfl
@[simp] theorem forgetBlockScope_haveReg (s : State) : (forgetBlockScope s).haveReg = s.haveReg := rfl
@[simp] theorem forgetBlockScope_limit (s : State) : (forgetBlockScope s).limit = s.limit := rfl
@[simp] theorem forgetBlockScope_seen (s : State) : (forgetBlockScope s).seen = s.seen := rfl
@[simp] theorem forgetBlockScope_res (s : State) : (forgetBlockScope s).res = s.res := rfl
@[simp] theorem forgetBlockScope_rcnt (s : State) : (forgetBlockScope s).rcnt = s.rcnt := rfl
@[simp] theorem forgetBlockScope_out (s : State) : (forgetBlockScope s).out = s.out := rfl
@[simp] theorem forgetBlockScope_outLen (s : State) : (forgetBlockScope s).outLen = s.outLen := rfl
@[simp] theorem forgetBlockScope_busy (s : State) : (forgetBlockScope s).busy = s.busy := rfl
@[simp] theorem forgetBlockScope_done (s : State) : (forgetBlockScope s).done = s.done := rfl
@[simp] theorem forgetBlockScope_errCode (s : State) : (forgetBlockScope s).errCode = s.errCode := rfl
@[simp] theorem forgetBlockScope_errSub (s : State) : (forgetBlockScope s).errSub = s.errSub := rfl
@[simp] theorem forgetBlockScope_esticky (s : State) : (forgetBlockScope s).esticky = s.esticky := rfl

/-! ### the scratch state unspecified (R24, R27, R29, R31) -/

@[simp] theorem forgetDrawScope_cfg (s : State) : (forgetDrawScope s).cfg = s.cfg := rfl
@[simp] theorem forgetDrawScope_host (s : State) : (forgetDrawScope s).host = s.host := rfl
@[simp] theorem forgetDrawScope_freeNext (s : State) : (forgetDrawScope s).freeNext = s.freeNext + 1 := rfl
@[simp] theorem forgetDrawScope_keyb (s : State) : (forgetDrawScope s).keyb = s.keyb := rfl
@[simp] theorem forgetDrawScope_klen (s : State) : (forgetDrawScope s).klen = s.klen := rfl
@[simp] theorem forgetDrawScope_nonb (s : State) : (forgetDrawScope s).nonb = s.nonb := rfl
@[simp] theorem forgetDrawScope_nlen (s : State) : (forgetDrawScope s).nlen = s.nlen := rfl
@[simp] theorem forgetDrawScope_len (s : State) : (forgetDrawScope s).len = s.len := rfl
@[simp] theorem forgetDrawScope_count (s : State) : (forgetDrawScope s).count = s.count := rfl
@[simp] theorem forgetDrawScope_modulus (s : State) : (forgetDrawScope s).modulus = s.modulus := rfl
@[simp] theorem forgetDrawScope_sreg (s : State) : (forgetDrawScope s).sreg = freeBlock s.freeNext 0 := rfl
@[simp] theorem forgetDrawScope_xreg (s : State) : (forgetDrawScope s).xreg = freeBlock s.freeNext 16 := rfl
@[simp] theorem forgetDrawScope_ctr (s : State) : (forgetDrawScope s).ctr = s.ctr := rfl
@[simp] theorem forgetDrawScope_wn (s : State) : (forgetDrawScope s).wn = freeNonce s.freeNext := rfl
@[simp] theorem forgetDrawScope_suffix (s : State) : (forgetDrawScope s).suffix = s.suffix := rfl
@[simp] theorem forgetDrawScope_swrap (s : State) : (forgetDrawScope s).swrap = s.swrap := rfl
@[simp] theorem forgetDrawScope_pool (s : State) : (forgetDrawScope s).pool = [] := rfl
@[simp] theorem forgetDrawScope_idx (s : State) : (forgetDrawScope s).idx = s.idx := rfl
@[simp] theorem forgetDrawScope_haveReg (s : State) : (forgetDrawScope s).haveReg = s.haveReg := rfl
@[simp] theorem forgetDrawScope_limit (s : State) : (forgetDrawScope s).limit = s.limit := rfl
@[simp] theorem forgetDrawScope_seen (s : State) : (forgetDrawScope s).seen = [] := rfl
@[simp] theorem forgetDrawScope_res (s : State) : (forgetDrawScope s).res = s.res := rfl
@[simp] theorem forgetDrawScope_rcnt (s : State) : (forgetDrawScope s).rcnt = s.rcnt := rfl
@[simp] theorem forgetDrawScope_out (s : State) : (forgetDrawScope s).out = s.out := rfl
@[simp] theorem forgetDrawScope_outLen (s : State) : (forgetDrawScope s).outLen = s.outLen := rfl
@[simp] theorem forgetDrawScope_busy (s : State) : (forgetDrawScope s).busy = s.busy := rfl
@[simp] theorem forgetDrawScope_done (s : State) : (forgetDrawScope s).done = s.done := rfl
@[simp] theorem forgetDrawScope_errCode (s : State) : (forgetDrawScope s).errCode = s.errCode := rfl
@[simp] theorem forgetDrawScope_errSub (s : State) : (forgetDrawScope s).errSub = s.errSub := rfl
@[simp] theorem forgetDrawScope_esticky (s : State) : (forgetDrawScope s).esticky = s.esticky := rfl

/-! ### `raise` (R280) -/

@[simp] theorem raise_cfg (e : CallError) (s : State) : (raise e s).cfg = s.cfg := rfl
@[simp] theorem raise_host (e : CallError) (s : State) : (raise e s).host = s.host := rfl
@[simp] theorem raise_freeNext (e : CallError) (s : State) : (raise e s).freeNext = s.freeNext + 1 := rfl
@[simp] theorem raise_keyb (e : CallError) (s : State) : (raise e s).keyb = s.keyb := rfl
@[simp] theorem raise_klen (e : CallError) (s : State) : (raise e s).klen = s.klen := rfl
@[simp] theorem raise_nonb (e : CallError) (s : State) : (raise e s).nonb = s.nonb := rfl
@[simp] theorem raise_nlen (e : CallError) (s : State) : (raise e s).nlen = s.nlen := rfl
@[simp] theorem raise_len (e : CallError) (s : State) : (raise e s).len = s.len := rfl
@[simp] theorem raise_count (e : CallError) (s : State) : (raise e s).count = s.count := rfl
@[simp] theorem raise_modulus (e : CallError) (s : State) : (raise e s).modulus = s.modulus := rfl
@[simp] theorem raise_sreg (e : CallError) (s : State) : (raise e s).sreg = freeBlock s.freeNext 0 := rfl
@[simp] theorem raise_xreg (e : CallError) (s : State) : (raise e s).xreg = freeBlock s.freeNext 16 := rfl
@[simp] theorem raise_ctr (e : CallError) (s : State) : (raise e s).ctr = s.ctr := rfl
@[simp] theorem raise_wn (e : CallError) (s : State) : (raise e s).wn = freeNonce s.freeNext := rfl
@[simp] theorem raise_suffix (e : CallError) (s : State) : (raise e s).suffix = s.suffix := rfl
@[simp] theorem raise_swrap (e : CallError) (s : State) : (raise e s).swrap = s.swrap := rfl
@[simp] theorem raise_pool (e : CallError) (s : State) : (raise e s).pool = [] := rfl
@[simp] theorem raise_idx (e : CallError) (s : State) : (raise e s).idx = s.idx := rfl
@[simp] theorem raise_haveReg (e : CallError) (s : State) : (raise e s).haveReg = s.haveReg := rfl
@[simp] theorem raise_limit (e : CallError) (s : State) : (raise e s).limit = s.limit := rfl
@[simp] theorem raise_seen (e : CallError) (s : State) : (raise e s).seen = [] := rfl
@[simp] theorem raise_res (e : CallError) (s : State) : (raise e s).res = [] := rfl
@[simp] theorem raise_rcnt (e : CallError) (s : State) : (raise e s).rcnt = 0#32 := rfl
@[simp] theorem raise_out (e : CallError) (s : State) : (raise e s).out = [] := rfl
@[simp] theorem raise_outLen (e : CallError) (s : State) : (raise e s).outLen = 0#64 := rfl
@[simp] theorem raise_busy (e : CallError) (s : State) : (raise e s).busy = false := rfl
@[simp] theorem raise_done (e : CallError) (s : State) : (raise e s).done = false := rfl
@[simp] theorem raise_errCode (e : CallError) (s : State) : (raise e s).errCode = e.code := rfl
@[simp] theorem raise_errSub (e : CallError) (s : State) : (raise e s).errSub = e.sub := rfl
@[simp] theorem raise_esticky (e : CallError) (s : State) : (raise e s).esticky = true := rfl

/-! ### an illegal command (R104) -/

@[simp] theorem illegalCommand_cfg (s : State) : (illegalCommand s).cfg = s.cfg := rfl
@[simp] theorem illegalCommand_host (s : State) : (illegalCommand s).host = s.host := rfl
@[simp] theorem illegalCommand_freeNext (s : State) : (illegalCommand s).freeNext = s.freeNext := rfl
@[simp] theorem illegalCommand_keyb (s : State) : (illegalCommand s).keyb = s.keyb := rfl
@[simp] theorem illegalCommand_klen (s : State) : (illegalCommand s).klen = s.klen := rfl
@[simp] theorem illegalCommand_nonb (s : State) : (illegalCommand s).nonb = s.nonb := rfl
@[simp] theorem illegalCommand_nlen (s : State) : (illegalCommand s).nlen = s.nlen := rfl
@[simp] theorem illegalCommand_len (s : State) : (illegalCommand s).len = s.len := rfl
@[simp] theorem illegalCommand_count (s : State) : (illegalCommand s).count = s.count := rfl
@[simp] theorem illegalCommand_modulus (s : State) : (illegalCommand s).modulus = s.modulus := rfl
@[simp] theorem illegalCommand_sreg (s : State) : (illegalCommand s).sreg = s.sreg := rfl
@[simp] theorem illegalCommand_xreg (s : State) : (illegalCommand s).xreg = s.xreg := rfl
@[simp] theorem illegalCommand_ctr (s : State) : (illegalCommand s).ctr = s.ctr := rfl
@[simp] theorem illegalCommand_wn (s : State) : (illegalCommand s).wn = s.wn := rfl
@[simp] theorem illegalCommand_suffix (s : State) : (illegalCommand s).suffix = s.suffix := rfl
@[simp] theorem illegalCommand_swrap (s : State) : (illegalCommand s).swrap = s.swrap := rfl
@[simp] theorem illegalCommand_pool (s : State) : (illegalCommand s).pool = s.pool := rfl
@[simp] theorem illegalCommand_idx (s : State) : (illegalCommand s).idx = s.idx := rfl
@[simp] theorem illegalCommand_haveReg (s : State) : (illegalCommand s).haveReg = s.haveReg := rfl
@[simp] theorem illegalCommand_limit (s : State) : (illegalCommand s).limit = s.limit := rfl
@[simp] theorem illegalCommand_seen (s : State) : (illegalCommand s).seen = s.seen := rfl
@[simp] theorem illegalCommand_res (s : State) : (illegalCommand s).res = s.res := rfl
@[simp] theorem illegalCommand_rcnt (s : State) : (illegalCommand s).rcnt = s.rcnt := rfl
@[simp] theorem illegalCommand_out (s : State) : (illegalCommand s).out = s.out := rfl
@[simp] theorem illegalCommand_outLen (s : State) : (illegalCommand s).outLen = s.outLen := rfl
@[simp] theorem illegalCommand_busy (s : State) : (illegalCommand s).busy = false := rfl
@[simp] theorem illegalCommand_done (s : State) : (illegalCommand s).done = s.done := rfl
@[simp] theorem illegalCommand_errCode (s : State) : (illegalCommand s).errCode = 5#3 := rfl
@[simp] theorem illegalCommand_errSub (s : State) : (illegalCommand s).errSub = 0#3 := rfl
@[simp] theorem illegalCommand_esticky (s : State) : (illegalCommand s).esticky = true := rfl

/-! ### a command word accepted (R261) -/

@[simp] theorem accept_cfg (rest : List HostInput) (s : State) : (accept rest s).cfg = s.cfg := rfl
@[simp] theorem accept_host (rest : List HostInput) (s : State) : (accept rest s).host = rest := rfl
@[simp] theorem accept_freeNext (rest : List HostInput) (s : State) : (accept rest s).freeNext = s.freeNext := rfl
@[simp] theorem accept_keyb (rest : List HostInput) (s : State) : (accept rest s).keyb = s.keyb := rfl
@[simp] theorem accept_klen (rest : List HostInput) (s : State) : (accept rest s).klen = s.klen := rfl
@[simp] theorem accept_nonb (rest : List HostInput) (s : State) : (accept rest s).nonb = s.nonb := rfl
@[simp] theorem accept_nlen (rest : List HostInput) (s : State) : (accept rest s).nlen = s.nlen := rfl
@[simp] theorem accept_len (rest : List HostInput) (s : State) : (accept rest s).len = s.len := rfl
@[simp] theorem accept_count (rest : List HostInput) (s : State) : (accept rest s).count = s.count := rfl
@[simp] theorem accept_modulus (rest : List HostInput) (s : State) : (accept rest s).modulus = s.modulus := rfl
@[simp] theorem accept_sreg (rest : List HostInput) (s : State) : (accept rest s).sreg = s.sreg := rfl
@[simp] theorem accept_xreg (rest : List HostInput) (s : State) : (accept rest s).xreg = s.xreg := rfl
@[simp] theorem accept_ctr (rest : List HostInput) (s : State) : (accept rest s).ctr = s.ctr := rfl
@[simp] theorem accept_wn (rest : List HostInput) (s : State) : (accept rest s).wn = s.wn := rfl
@[simp] theorem accept_suffix (rest : List HostInput) (s : State) : (accept rest s).suffix = s.suffix := rfl
@[simp] theorem accept_swrap (rest : List HostInput) (s : State) : (accept rest s).swrap = s.swrap := rfl
@[simp] theorem accept_pool (rest : List HostInput) (s : State) : (accept rest s).pool = s.pool := rfl
@[simp] theorem accept_idx (rest : List HostInput) (s : State) : (accept rest s).idx = s.idx := rfl
@[simp] theorem accept_haveReg (rest : List HostInput) (s : State) : (accept rest s).haveReg = s.haveReg := rfl
@[simp] theorem accept_limit (rest : List HostInput) (s : State) : (accept rest s).limit = s.limit := rfl
@[simp] theorem accept_seen (rest : List HostInput) (s : State) : (accept rest s).seen = s.seen := rfl
@[simp] theorem accept_res (rest : List HostInput) (s : State) : (accept rest s).res = s.res := rfl
@[simp] theorem accept_rcnt (rest : List HostInput) (s : State) : (accept rest s).rcnt = s.rcnt := rfl
@[simp] theorem accept_out (rest : List HostInput) (s : State) : (accept rest s).out = s.out := rfl
@[simp] theorem accept_outLen (rest : List HostInput) (s : State) : (accept rest s).outLen = s.outLen := rfl
@[simp] theorem accept_busy (rest : List HostInput) (s : State) : (accept rest s).busy = true := rfl
@[simp] theorem accept_done (rest : List HostInput) (s : State) : (accept rest s).done = s.done := rfl
@[simp] theorem accept_errCode (rest : List HostInput) (s : State) : (accept rest s).errCode = s.errCode := rfl
@[simp] theorem accept_errSub (rest : List HostInput) (s : State) : (accept rest s).errSub = s.errSub := rfl
@[simp] theorem accept_esticky (rest : List HostInput) (s : State) : (accept rest s).esticky = s.esticky := rfl

/-! ### INITSTATE (R152) -/

@[simp] theorem initState_cfg (n : Nonce) (s : State) : (initState n s).cfg = s.cfg := by simp only [initState]
@[simp] theorem initState_host (n : Nonce) (s : State) : (initState n s).host = s.host := by simp only [initState]
@[simp] theorem initState_freeNext (n : Nonce) (s : State) : (initState n s).freeNext = s.freeNext := by simp only [initState]
@[simp] theorem initState_keyb (n : Nonce) (s : State) : (initState n s).keyb = s.keyb := by simp only [initState]
@[simp] theorem initState_klen (n : Nonce) (s : State) : (initState n s).klen = s.klen := by simp only [initState]
@[simp] theorem initState_nonb (n : Nonce) (s : State) : (initState n s).nonb = s.nonb := by simp only [initState]
@[simp] theorem initState_nlen (n : Nonce) (s : State) : (initState n s).nlen = s.nlen := by simp only [initState]
@[simp] theorem initState_len (n : Nonce) (s : State) : (initState n s).len = s.len := by simp only [initState]
@[simp] theorem initState_count (n : Nonce) (s : State) : (initState n s).count = s.count := by simp only [initState]
@[simp] theorem initState_modulus (n : Nonce) (s : State) : (initState n s).modulus = s.modulus := by simp only [initState]
@[simp] theorem initState_sreg (n : Nonce) (s : State) : (initState n s).sreg = stateArray s.keyb s.ctr n := by simp only [initState]
@[simp] theorem initState_xreg (n : Nonce) (s : State) : (initState n s).xreg = s.xreg := by simp only [initState]
@[simp] theorem initState_ctr (n : Nonce) (s : State) : (initState n s).ctr = s.ctr := by simp only [initState]
@[simp] theorem initState_wn (n : Nonce) (s : State) : (initState n s).wn = s.wn := by simp only [initState]
@[simp] theorem initState_suffix (n : Nonce) (s : State) : (initState n s).suffix = s.suffix := by simp only [initState]
@[simp] theorem initState_swrap (n : Nonce) (s : State) : (initState n s).swrap = s.swrap := by simp only [initState]
@[simp] theorem initState_pool (n : Nonce) (s : State) : (initState n s).pool = s.pool := by simp only [initState]
@[simp] theorem initState_idx (n : Nonce) (s : State) : (initState n s).idx = s.idx := by simp only [initState]
@[simp] theorem initState_haveReg (n : Nonce) (s : State) : (initState n s).haveReg = s.haveReg := by simp only [initState]
@[simp] theorem initState_limit (n : Nonce) (s : State) : (initState n s).limit = s.limit := by simp only [initState]
@[simp] theorem initState_seen (n : Nonce) (s : State) : (initState n s).seen = s.seen := by simp only [initState]
@[simp] theorem initState_res (n : Nonce) (s : State) : (initState n s).res = s.res := by simp only [initState]
@[simp] theorem initState_rcnt (n : Nonce) (s : State) : (initState n s).rcnt = s.rcnt := by simp only [initState]
@[simp] theorem initState_out (n : Nonce) (s : State) : (initState n s).out = s.out := by simp only [initState]
@[simp] theorem initState_outLen (n : Nonce) (s : State) : (initState n s).outLen = s.outLen := by simp only [initState]
@[simp] theorem initState_busy (n : Nonce) (s : State) : (initState n s).busy = s.busy := by simp only [initState]
@[simp] theorem initState_done (n : Nonce) (s : State) : (initState n s).done = s.done := by simp only [initState]
@[simp] theorem initState_errCode (n : Nonce) (s : State) : (initState n s).errCode = s.errCode := by simp only [initState]
@[simp] theorem initState_errSub (n : Nonce) (s : State) : (initState n s).errSub = s.errSub := by simp only [initState]
@[simp] theorem initState_esticky (n : Nonce) (s : State) : (initState n s).esticky = s.esticky := by simp only [initState]

/-! ### ROUNDS20 on X (R140) -/

@[simp] theorem runRounds_cfg (s : State) : (runRounds s).cfg = s.cfg := by simp only [runRounds]
@[simp] theorem runRounds_host (s : State) : (runRounds s).host = s.host := by simp only [runRounds]
@[simp] theorem runRounds_freeNext (s : State) : (runRounds s).freeNext = s.freeNext := by simp only [runRounds]
@[simp] theorem runRounds_keyb (s : State) : (runRounds s).keyb = s.keyb := by simp only [runRounds]
@[simp] theorem runRounds_klen (s : State) : (runRounds s).klen = s.klen := by simp only [runRounds]
@[simp] theorem runRounds_nonb (s : State) : (runRounds s).nonb = s.nonb := by simp only [runRounds]
@[simp] theorem runRounds_nlen (s : State) : (runRounds s).nlen = s.nlen := by simp only [runRounds]
@[simp] theorem runRounds_len (s : State) : (runRounds s).len = s.len := by simp only [runRounds]
@[simp] theorem runRounds_count (s : State) : (runRounds s).count = s.count := by simp only [runRounds]
@[simp] theorem runRounds_modulus (s : State) : (runRounds s).modulus = s.modulus := by simp only [runRounds]
@[simp] theorem runRounds_sreg (s : State) : (runRounds s).sreg = s.sreg := by simp only [runRounds]
@[simp] theorem runRounds_xreg (s : State) : (runRounds s).xreg = rounds20 s.sreg := by simp only [runRounds]
@[simp] theorem runRounds_ctr (s : State) : (runRounds s).ctr = s.ctr := by simp only [runRounds]
@[simp] theorem runRounds_wn (s : State) : (runRounds s).wn = s.wn := by simp only [runRounds]
@[simp] theorem runRounds_suffix (s : State) : (runRounds s).suffix = s.suffix := by simp only [runRounds]
@[simp] theorem runRounds_swrap (s : State) : (runRounds s).swrap = s.swrap := by simp only [runRounds]
@[simp] theorem runRounds_pool (s : State) : (runRounds s).pool = s.pool := by simp only [runRounds]
@[simp] theorem runRounds_idx (s : State) : (runRounds s).idx = s.idx := by simp only [runRounds]
@[simp] theorem runRounds_haveReg (s : State) : (runRounds s).haveReg = s.haveReg := by simp only [runRounds]
@[simp] theorem runRounds_limit (s : State) : (runRounds s).limit = s.limit := by simp only [runRounds]
@[simp] theorem runRounds_seen (s : State) : (runRounds s).seen = s.seen := by simp only [runRounds]
@[simp] theorem runRounds_res (s : State) : (runRounds s).res = s.res := by simp only [runRounds]
@[simp] theorem runRounds_rcnt (s : State) : (runRounds s).rcnt = s.rcnt := by simp only [runRounds]
@[simp] theorem runRounds_out (s : State) : (runRounds s).out = s.out := by simp only [runRounds]
@[simp] theorem runRounds_outLen (s : State) : (runRounds s).outLen = s.outLen := by simp only [runRounds]
@[simp] theorem runRounds_busy (s : State) : (runRounds s).busy = s.busy := by simp only [runRounds]
@[simp] theorem runRounds_done (s : State) : (runRounds s).done = s.done := by simp only [runRounds]
@[simp] theorem runRounds_errCode (s : State) : (runRounds s).errCode = s.errCode := by simp only [runRounds]
@[simp] theorem runRounds_errSub (s : State) : (runRounds s).errSub = s.errSub := by simp only [runRounds]
@[simp] theorem runRounds_esticky (s : State) : (runRounds s).esticky = s.esticky := by simp only [runRounds]

/-! ### WNONCE (R181) -/

@[simp] theorem setWorkingNonce_cfg (s : State) : (setWorkingNonce s).cfg = s.cfg := by simp only [setWorkingNonce]
@[simp] theorem setWorkingNonce_host (s : State) : (setWorkingNonce s).host = s.host := by simp only [setWorkingNonce]
@[simp] theorem setWorkingNonce_freeNext (s : State) : (setWorkingNonce s).freeNext = s.freeNext := by simp only [setWorkingNonce]
@[simp] theorem setWorkingNonce_keyb (s : State) : (setWorkingNonce s).keyb = s.keyb := by simp only [setWorkingNonce]
@[simp] theorem setWorkingNonce_klen (s : State) : (setWorkingNonce s).klen = s.klen := by simp only [setWorkingNonce]
@[simp] theorem setWorkingNonce_nonb (s : State) : (setWorkingNonce s).nonb = s.nonb := by simp only [setWorkingNonce]
@[simp] theorem setWorkingNonce_nlen (s : State) : (setWorkingNonce s).nlen = s.nlen := by simp only [setWorkingNonce]
@[simp] theorem setWorkingNonce_len (s : State) : (setWorkingNonce s).len = s.len := by simp only [setWorkingNonce]
@[simp] theorem setWorkingNonce_count (s : State) : (setWorkingNonce s).count = s.count := by simp only [setWorkingNonce]
@[simp] theorem setWorkingNonce_modulus (s : State) : (setWorkingNonce s).modulus = s.modulus := by simp only [setWorkingNonce]
@[simp] theorem setWorkingNonce_sreg (s : State) : (setWorkingNonce s).sreg = s.sreg := by simp only [setWorkingNonce]
@[simp] theorem setWorkingNonce_xreg (s : State) : (setWorkingNonce s).xreg = s.xreg := by simp only [setWorkingNonce]
@[simp] theorem setWorkingNonce_ctr (s : State) : (setWorkingNonce s).ctr = s.ctr := by simp only [setWorkingNonce]
@[simp] theorem setWorkingNonce_wn (s : State) : (setWorkingNonce s).wn = workingNonce s.cfg.suffixOrder s.nonb s.suffix := by simp only [setWorkingNonce]
@[simp] theorem setWorkingNonce_suffix (s : State) : (setWorkingNonce s).suffix = s.suffix := by simp only [setWorkingNonce]
@[simp] theorem setWorkingNonce_swrap (s : State) : (setWorkingNonce s).swrap = s.swrap := by simp only [setWorkingNonce]
@[simp] theorem setWorkingNonce_pool (s : State) : (setWorkingNonce s).pool = s.pool := by simp only [setWorkingNonce]
@[simp] theorem setWorkingNonce_idx (s : State) : (setWorkingNonce s).idx = s.idx := by simp only [setWorkingNonce]
@[simp] theorem setWorkingNonce_haveReg (s : State) : (setWorkingNonce s).haveReg = s.haveReg := by simp only [setWorkingNonce]
@[simp] theorem setWorkingNonce_limit (s : State) : (setWorkingNonce s).limit = s.limit := by simp only [setWorkingNonce]
@[simp] theorem setWorkingNonce_seen (s : State) : (setWorkingNonce s).seen = s.seen := by simp only [setWorkingNonce]
@[simp] theorem setWorkingNonce_res (s : State) : (setWorkingNonce s).res = s.res := by simp only [setWorkingNonce]
@[simp] theorem setWorkingNonce_rcnt (s : State) : (setWorkingNonce s).rcnt = s.rcnt := by simp only [setWorkingNonce]
@[simp] theorem setWorkingNonce_out (s : State) : (setWorkingNonce s).out = s.out := by simp only [setWorkingNonce]
@[simp] theorem setWorkingNonce_outLen (s : State) : (setWorkingNonce s).outLen = s.outLen := by simp only [setWorkingNonce]
@[simp] theorem setWorkingNonce_busy (s : State) : (setWorkingNonce s).busy = s.busy := by simp only [setWorkingNonce]
@[simp] theorem setWorkingNonce_done (s : State) : (setWorkingNonce s).done = s.done := by simp only [setWorkingNonce]
@[simp] theorem setWorkingNonce_errCode (s : State) : (setWorkingNonce s).errCode = s.errCode := by simp only [setWorkingNonce]
@[simp] theorem setWorkingNonce_errSub (s : State) : (setWorkingNonce s).errSub = s.errSub := by simp only [setWorkingNonce]
@[simp] theorem setWorkingNonce_esticky (s : State) : (setWorkingNonce s).esticky = s.esticky := by simp only [setWorkingNonce]

/-! ### the suffix advance (R182) -/

@[simp] theorem advanceSuffix_cfg (s : State) : (advanceSuffix s).cfg = s.cfg := rfl
@[simp] theorem advanceSuffix_host (s : State) : (advanceSuffix s).host = s.host := rfl
@[simp] theorem advanceSuffix_freeNext (s : State) : (advanceSuffix s).freeNext = s.freeNext := rfl
@[simp] theorem advanceSuffix_keyb (s : State) : (advanceSuffix s).keyb = s.keyb := rfl
@[simp] theorem advanceSuffix_klen (s : State) : (advanceSuffix s).klen = s.klen := rfl
@[simp] theorem advanceSuffix_nonb (s : State) : (advanceSuffix s).nonb = s.nonb := rfl
@[simp] theorem advanceSuffix_nlen (s : State) : (advanceSuffix s).nlen = s.nlen := rfl
@[simp] theorem advanceSuffix_len (s : State) : (advanceSuffix s).len = s.len := rfl
@[simp] theorem advanceSuffix_count (s : State) : (advanceSuffix s).count = s.count := rfl
@[simp] theorem advanceSuffix_modulus (s : State) : (advanceSuffix s).modulus = s.modulus := rfl
@[simp] theorem advanceSuffix_sreg (s : State) : (advanceSuffix s).sreg = s.sreg := rfl
@[simp] theorem advanceSuffix_xreg (s : State) : (advanceSuffix s).xreg = s.xreg := rfl
@[simp] theorem advanceSuffix_ctr (s : State) : (advanceSuffix s).ctr = s.ctr := rfl
@[simp] theorem advanceSuffix_wn (s : State) : (advanceSuffix s).wn = s.wn := rfl
@[simp] theorem advanceSuffix_suffix (s : State) : (advanceSuffix s).suffix = s.suffix + 1#32 := rfl
@[simp] theorem advanceSuffix_swrap (s : State) : (advanceSuffix s).swrap = (s.swrap || s.suffix == 0xFFFFFFFF#32) := rfl
@[simp] theorem advanceSuffix_pool (s : State) : (advanceSuffix s).pool = s.pool := rfl
@[simp] theorem advanceSuffix_idx (s : State) : (advanceSuffix s).idx = s.idx := rfl
@[simp] theorem advanceSuffix_haveReg (s : State) : (advanceSuffix s).haveReg = s.haveReg := rfl
@[simp] theorem advanceSuffix_limit (s : State) : (advanceSuffix s).limit = s.limit := rfl
@[simp] theorem advanceSuffix_seen (s : State) : (advanceSuffix s).seen = s.seen := rfl
@[simp] theorem advanceSuffix_res (s : State) : (advanceSuffix s).res = s.res := rfl
@[simp] theorem advanceSuffix_rcnt (s : State) : (advanceSuffix s).rcnt = s.rcnt := rfl
@[simp] theorem advanceSuffix_out (s : State) : (advanceSuffix s).out = s.out := rfl
@[simp] theorem advanceSuffix_outLen (s : State) : (advanceSuffix s).outLen = s.outLen := rfl
@[simp] theorem advanceSuffix_busy (s : State) : (advanceSuffix s).busy = s.busy := rfl
@[simp] theorem advanceSuffix_done (s : State) : (advanceSuffix s).done = s.done := rfl
@[simp] theorem advanceSuffix_errCode (s : State) : (advanceSuffix s).errCode = s.errCode := rfl
@[simp] theorem advanceSuffix_errSub (s : State) : (advanceSuffix s).errSub = s.errSub := rfl
@[simp] theorem advanceSuffix_esticky (s : State) : (advanceSuffix s).esticky = s.esticky := rfl

/-! ### DRAWINIT (R216) -/

@[simp] theorem drawInit_cfg (s : State) : (drawInit s).cfg = s.cfg := rfl
@[simp] theorem drawInit_host (s : State) : (drawInit s).host = s.host := rfl
@[simp] theorem drawInit_freeNext (s : State) : (drawInit s).freeNext = s.freeNext := rfl
@[simp] theorem drawInit_keyb (s : State) : (drawInit s).keyb = s.keyb := rfl
@[simp] theorem drawInit_klen (s : State) : (drawInit s).klen = s.klen := rfl
@[simp] theorem drawInit_nonb (s : State) : (drawInit s).nonb = s.nonb := rfl
@[simp] theorem drawInit_nlen (s : State) : (drawInit s).nlen = s.nlen := rfl
@[simp] theorem drawInit_len (s : State) : (drawInit s).len = s.len := rfl
@[simp] theorem drawInit_count (s : State) : (drawInit s).count = s.count := rfl
@[simp] theorem drawInit_modulus (s : State) : (drawInit s).modulus = s.modulus := rfl
@[simp] theorem drawInit_sreg (s : State) : (drawInit s).sreg = s.sreg := rfl
@[simp] theorem drawInit_xreg (s : State) : (drawInit s).xreg = s.xreg := rfl
@[simp] theorem drawInit_ctr (s : State) : (drawInit s).ctr = s.ctr := rfl
@[simp] theorem drawInit_wn (s : State) : (drawInit s).wn = s.wn := rfl
@[simp] theorem drawInit_suffix (s : State) : (drawInit s).suffix = 0#32 := rfl
@[simp] theorem drawInit_swrap (s : State) : (drawInit s).swrap = false := rfl
@[simp] theorem drawInit_pool (s : State) : (drawInit s).pool = s.pool := rfl
@[simp] theorem drawInit_idx (s : State) : (drawInit s).idx = 0#32 := rfl
@[simp] theorem drawInit_haveReg (s : State) : (drawInit s).haveReg = 0#32 := rfl
@[simp] theorem drawInit_limit (s : State) : (drawInit s).limit = limitOf s.modulus := rfl
@[simp] theorem drawInit_seen (s : State) : (drawInit s).seen = Memory.fromList 0 (List.replicate s.modulus.toNat false) := rfl
@[simp] theorem drawInit_res (s : State) : (drawInit s).res = [] := rfl
@[simp] theorem drawInit_rcnt (s : State) : (drawInit s).rcnt = 0#32 := rfl
@[simp] theorem drawInit_out (s : State) : (drawInit s).out = s.out := rfl
@[simp] theorem drawInit_outLen (s : State) : (drawInit s).outLen = s.outLen := rfl
@[simp] theorem drawInit_busy (s : State) : (drawInit s).busy = s.busy := rfl
@[simp] theorem drawInit_done (s : State) : (drawInit s).done = s.done := rfl
@[simp] theorem drawInit_errCode (s : State) : (drawInit s).errCode = s.errCode := rfl
@[simp] theorem drawInit_errSub (s : State) : (drawInit s).errSub = s.errSub := rfl
@[simp] theorem drawInit_esticky (s : State) : (drawInit s).esticky = s.esticky := rfl

/-! ### the append of DRAWSTEP (R217) -/

@[simp] theorem appendResult_cfg (v : Word) (s : State) : (appendResult v s).cfg = s.cfg := rfl
@[simp] theorem appendResult_host (v : Word) (s : State) : (appendResult v s).host = s.host := rfl
@[simp] theorem appendResult_freeNext (v : Word) (s : State) : (appendResult v s).freeNext = s.freeNext := rfl
@[simp] theorem appendResult_keyb (v : Word) (s : State) : (appendResult v s).keyb = s.keyb := rfl
@[simp] theorem appendResult_klen (v : Word) (s : State) : (appendResult v s).klen = s.klen := rfl
@[simp] theorem appendResult_nonb (v : Word) (s : State) : (appendResult v s).nonb = s.nonb := rfl
@[simp] theorem appendResult_nlen (v : Word) (s : State) : (appendResult v s).nlen = s.nlen := rfl
@[simp] theorem appendResult_len (v : Word) (s : State) : (appendResult v s).len = s.len := rfl
@[simp] theorem appendResult_count (v : Word) (s : State) : (appendResult v s).count = s.count := rfl
@[simp] theorem appendResult_modulus (v : Word) (s : State) : (appendResult v s).modulus = s.modulus := rfl
@[simp] theorem appendResult_sreg (v : Word) (s : State) : (appendResult v s).sreg = s.sreg := rfl
@[simp] theorem appendResult_xreg (v : Word) (s : State) : (appendResult v s).xreg = s.xreg := rfl
@[simp] theorem appendResult_ctr (v : Word) (s : State) : (appendResult v s).ctr = s.ctr := rfl
@[simp] theorem appendResult_wn (v : Word) (s : State) : (appendResult v s).wn = s.wn := rfl
@[simp] theorem appendResult_suffix (v : Word) (s : State) : (appendResult v s).suffix = s.suffix := rfl
@[simp] theorem appendResult_swrap (v : Word) (s : State) : (appendResult v s).swrap = s.swrap := rfl
@[simp] theorem appendResult_pool (v : Word) (s : State) : (appendResult v s).pool = s.pool := rfl
@[simp] theorem appendResult_idx (v : Word) (s : State) : (appendResult v s).idx = s.idx := rfl
@[simp] theorem appendResult_haveReg (v : Word) (s : State) : (appendResult v s).haveReg = s.haveReg := rfl
@[simp] theorem appendResult_limit (v : Word) (s : State) : (appendResult v s).limit = s.limit := rfl
@[simp] theorem appendResult_seen (v : Word) (s : State) : (appendResult v s).seen = Memory.write s.seen v.toNat true := rfl
@[simp] theorem appendResult_res (v : Word) (s : State) : (appendResult v s).res = Memory.write s.res s.rcnt.toNat v := rfl
@[simp] theorem appendResult_rcnt (v : Word) (s : State) : (appendResult v s).rcnt = s.rcnt + 1#32 := rfl
@[simp] theorem appendResult_out (v : Word) (s : State) : (appendResult v s).out = s.out := rfl
@[simp] theorem appendResult_outLen (v : Word) (s : State) : (appendResult v s).outLen = s.outLen := rfl
@[simp] theorem appendResult_busy (v : Word) (s : State) : (appendResult v s).busy = s.busy := rfl
@[simp] theorem appendResult_done (v : Word) (s : State) : (appendResult v s).done = s.done := rfl
@[simp] theorem appendResult_errCode (v : Word) (s : State) : (appendResult v s).errCode = s.errCode := rfl
@[simp] theorem appendResult_errSub (v : Word) (s : State) : (appendResult v s).errSub = s.errSub := rfl
@[simp] theorem appendResult_esticky (v : Word) (s : State) : (appendResult v s).esticky = s.esticky := rfl

/-! ### reset (R65) -/

@[simp] theorem resetCore_cfg (s : State) : (resetCore s).cfg = s.cfg := rfl
@[simp] theorem resetCore_host (s : State) : (resetCore s).host = s.host := rfl
@[simp] theorem resetCore_freeNext (s : State) : (resetCore s).freeNext = s.freeNext + 1 := rfl
@[simp] theorem resetCore_keyb (s : State) : (resetCore s).keyb = Vector.replicate 32 0#8 := rfl
@[simp] theorem resetCore_klen (s : State) : (resetCore s).klen = 0#6 := rfl
@[simp] theorem resetCore_nonb (s : State) : (resetCore s).nonb = Vector.replicate 12 0#8 := rfl
@[simp] theorem resetCore_nlen (s : State) : (resetCore s).nlen = 0#4 := rfl
@[simp] theorem resetCore_len (s : State) : (resetCore s).len = 0#64 := rfl
@[simp] theorem resetCore_count (s : State) : (resetCore s).count = 320#32 := rfl
@[simp] theorem resetCore_modulus (s : State) : (resetCore s).modulus = 1000#32 := rfl
@[simp] theorem resetCore_sreg (s : State) : (resetCore s).sreg = freeBlock s.freeNext 0 := rfl
@[simp] theorem resetCore_xreg (s : State) : (resetCore s).xreg = freeBlock s.freeNext 16 := rfl
@[simp] theorem resetCore_ctr (s : State) : (resetCore s).ctr = 1#32 := rfl
@[simp] theorem resetCore_wn (s : State) : (resetCore s).wn = freeNonce s.freeNext := rfl
@[simp] theorem resetCore_suffix (s : State) : (resetCore s).suffix = 0#32 := rfl
@[simp] theorem resetCore_swrap (s : State) : (resetCore s).swrap = false := rfl
@[simp] theorem resetCore_pool (s : State) : (resetCore s).pool = [] := rfl
@[simp] theorem resetCore_idx (s : State) : (resetCore s).idx = 0#32 := rfl
@[simp] theorem resetCore_haveReg (s : State) : (resetCore s).haveReg = 0#32 := rfl
@[simp] theorem resetCore_limit (s : State) : (resetCore s).limit = 4294967000#32 := rfl
@[simp] theorem resetCore_seen (s : State) : (resetCore s).seen = [] := rfl
@[simp] theorem resetCore_res (s : State) : (resetCore s).res = [] := rfl
@[simp] theorem resetCore_rcnt (s : State) : (resetCore s).rcnt = 0#32 := rfl
@[simp] theorem resetCore_out (s : State) : (resetCore s).out = [] := rfl
@[simp] theorem resetCore_outLen (s : State) : (resetCore s).outLen = 0#64 := rfl
@[simp] theorem resetCore_busy (s : State) : (resetCore s).busy = false := rfl
@[simp] theorem resetCore_done (s : State) : (resetCore s).done = false := rfl
@[simp] theorem resetCore_errCode (s : State) : (resetCore s).errCode = 0#3 := rfl
@[simp] theorem resetCore_errSub (s : State) : (resetCore s).errSub = 0#3 := rfl
@[simp] theorem resetCore_esticky (s : State) : (resetCore s).esticky = false := rfl

end Sys2Proof.Machine
end

