-- ==== Sys2Proof/Laws/Keystream.lean ====
section
/-! SUPPORT. What the Keystream Generator can do, once per operation: the state it leaves, the number of bytes it gives, and
what those bytes depend on. -/

namespace Sys2Proof.Machine

/-- The loop of KS writes nothing but S, X and CTR, and advances CTR once per turn. -/
theorem ksLoop_state (n : Nonce) (blocks left : Nat) (s : State) :
    ∃ a b, (ksLoop n blocks left s).2 = { s with sreg := a, xreg := b, ctr := s.ctr + BitVec.ofNat 32 blocks } := by
  induction blocks generalizing left s with
  | zero => exact ⟨s.sreg, s.xreg, by simp [ksLoop]⟩
  | succ k ih =>
    obtain ⟨a, b, h⟩ := ih (left - 64) (ksTurn n s).2
    refine ⟨a, b, ?_⟩
    have hc : s.ctr + 1#32 + BitVec.ofNat 32 k = s.ctr + BitVec.ofNat 32 (k + 1) := by
      rw [BitVec.add_assoc, ← BitVec.ofNat_add]; congr 2; omega
    simp only [ksLoop]
    rw [h]
    simp only [ksTurn, runRounds_ctr, initState_ctr, hc]
    rfl

/-- KS writes nothing but S, X and CTR, and leaves CTR at `1 + nblocks` (R155, R158). -/
theorem keystream_state (n : Nonce) (nbytes : Nat) (s : State) :
    ∃ a b, (keystream n nbytes s).2 =
      { s with sreg := a, xreg := b, ctr := 1#32 + BitVec.ofNat 32 (blocksFor nbytes) } :=
  ksLoop_state n (blocksFor nbytes) nbytes { s with ctr := ctrInit }

/-- A serialised block has 64 bytes (R153). -/
theorem serialize_length (o : Block) : (serialize o).length = 64 := by
  obtain ⟨⟨l⟩, h⟩ := o
  have h : l.length = 16 := by simpa using h
  simp [serialize, List.length_flatMap, bytes32, h, Vector.toList]

/-- A loop with enough turns gives all the bytes asked for. -/
theorem ksLoop_length (n : Nonce) (blocks left : Nat) (s : State) (h : left ≤ 64 * blocks) :
    (ksLoop n blocks left s).1.length = left := by
  induction blocks generalizing left s with
  | zero => simp [ksLoop]; omega
  | succ k ih => simp [ksLoop, ksTurn, serialize_length, ih (left - 64) _ (by omega)]; omega

/-- KS gives the number of bytes asked for (R155). -/
theorem keystream_length (n : Nonce) (nbytes : Nat) (s : State) : (keystream n nbytes s).1.length = nbytes :=
  ksLoop_length n _ nbytes _ (by simp only [blocksFor]; omega)

/-- The bytes of the loop depend on the key and the counter alone. -/
theorem ksLoop_bytes_congr (n : Nonce) (blocks left : Nat) (s t : State) (hk : s.keyb = t.keyb) (hc : s.ctr = t.ctr) :
    (ksLoop n blocks left s).1 = (ksLoop n blocks left t).1 := by
  induction blocks generalizing left s t with
  | zero => rfl
  | succ k ih =>
    simp only [ksLoop]
    rw [ih (left - 64) (ksTurn n s).2 (ksTurn n t).2 (by simpa [ksTurn] using hk) (by simp [ksTurn, hc])]
    simp [ksTurn, hk, hc]

/-- The bytes of KS depend on the key alone, beside the nonce and the length (R154). -/
theorem keystream_bytes_congr (n : Nonce) (nbytes : Nat) (s t : State) (hk : s.keyb = t.keyb) :
    (keystream n nbytes s).1 = (keystream n nbytes t).1 :=
  ksLoop_bytes_congr n _ nbytes _ _ hk rfl

/-- The inputs are valid exactly when KLEN = 32 and NLEN = 12. -/
theorem inputsValid_iff (s : State) : inputsValid s = true ↔ s.klen = 32#6 ∧ s.nlen = 12#4 := by
  simp [inputsValid]

/-- The inputs are invalid exactly when KLEN is not 32 or NLEN is not 12. -/
theorem inputsValid_false_iff (s : State) : inputsValid s = false ↔ ¬ (s.klen = 32#6 ∧ s.nlen = 12#4) := by
  rw [← inputsValid_iff]; simp

/-- Masking the final byte keeps the number of bytes. -/
theorem maskFinal_length (keep : MaskKeep) (r : Nat) (bs : List Byte) : (maskFinal keep r bs).length = bs.length := by
  induction bs with
  | nil => rfl
  | cons b bs ih => cases bs <;> simp_all [maskFinal]

/-- With `r` = 0 nothing is masked (R159: MASKLAST is not applied). -/
theorem maskFinal_zero (keep : MaskKeep) (bs : List Byte) : maskFinal keep 0 bs = bs := by
  induction bs with
  | nil => rfl
  | cons b bs ih => cases bs <;> simp_all [maskFinal]

/-- What the sink of GENBITS gives, byte by byte (R160). -/
theorem maskFinal_getElem? (keep : MaskKeep) (r : Nat) (bs : List Byte) (i : Nat) :
    (maskFinal keep r bs)[i]? =
      (bs[i]?).map fun b => if i + 1 = bs.length ∧ r ≠ 0 then maskLast keep b r else b := by
  induction bs generalizing i with
  | nil => simp [maskFinal]
  | cons b bs ih =>
    cases bs with
    | nil => cases i <;> simp [maskFinal]
    | cons c bs =>
      cases i with
      | zero => simp [maskFinal]
      | succ i => simp [maskFinal, ih i]

/-- What a successful keystream call leaves (R160, R162): OUT and OUTLEN, CTR, the status; S, X and the free counter. -/
theorem deliver_state (nbytes r : Nat) (s : State) :
    ∃ a b f, deliver nbytes r s =
      { s with
        sreg := a, xreg := b, freeNext := f
        ctr := 1#32 + BitVec.ofNat 32 (blocksFor nbytes)
        out := maskFinal s.cfg.maskKeep r (keystream s.nonb nbytes s).1
        outLen := BitVec.ofNat 64 nbytes
        done := true, busy := false } := by
  obtain ⟨a, b, h⟩ := keystream_state s.nonb nbytes s
  refine ⟨freeBlock s.freeNext 0, freeBlock s.freeNext 16, s.freeNext + 1, ?_⟩
  simp only [deliver, h, setOut, maskFinal_length, keystream_length]
  rfl

/-- Byte `i` of words laid out little-endian (R75). -/
theorem flatMap_bytes32_getElem? (l : List Word) (i : Nat) :
    (l.flatMap bytes32)[i]? = (l[i / 4]?).map fun w => byteOf w (i % 4) := by
  induction l generalizing i with
  | nil => simp
  | cons w l ih =>
    rw [List.flatMap_cons]
    match i with
    | 0 | 1 | 2 | 3 => simp [bytes32]
    | j + 4 =>
      have : (j + 4) / 4 = j / 4 + 1 := by omega
      rw [List.getElem?_append_right (by simp [bytes32])]
      rw [this]; simp [bytes32, ih]

/-- Byte `i` of a serialised block (R153). -/
theorem serialize_getElem? (o : Block) (i : Nat) (h : i < 64) :
    (serialize o)[i]? = some (byteOf (o[i / 4]'(by omega)) (i % 4)) := by
  rw [serialize, flatMap_bytes32_getElem?]
  rw [List.getElem?_eq_getElem (by simp; omega)]
  simp

/-- Byte `i` of a keystream loop that starts at counter `c` is the closed form from that counter (R154). -/
theorem ksLoop_getElem? (n : Nonce) (blocks left i c : Nat) (s : State) (h : left ≤ 64 * blocks) (hi : i < left)
    (hc : s.ctr = BitVec.ofNat 32 c) :
    (ksLoop n blocks left s).1[i]? =
      some (byteOf ((ksBlockWords s.keyb n (c + i / 64))[i % 64 / 4]'(by omega)) (i % 4)) := by
  induction blocks generalizing left s i c with
  | zero => omega
  | succ k ih =>
    simp only [ksLoop]
    by_cases h64 : i < 64
    · rw [List.getElem?_append_left (by simp [ksTurn, serialize_length]; omega), List.getElem?_take, if_pos (by omega)]
      simp only [ksTurn]
      rw [serialize_getElem? _ _ h64]
      have e1 : i / 64 = 0 := by omega
      have e2 : i % 64 = i := by omega
      simp only [e1, e2, Nat.add_zero, ksBlockWords, blockTransform, runRounds, initState, hc]
    · have hl : ((ksTurn n s).1.take (min 64 left)).length = 64 := by simp [ksTurn, serialize_length]; omega
      rw [List.getElem?_append_right (by omega), hl]
      have := ih (left - 64) (i - 64) (c + 1) (ksTurn n s).2 (by omega) (by omega) (by simp [ksTurn, hc, BitVec.ofNat_add])
      rw [this]
      have e1 : c + 1 + (i - 64) / 64 = c + i / 64 := by omega
      have e2 : (i - 64) % 64 = i % 64 := by omega
      have e3 : (i - 64) % 4 = i % 4 := by omega
      have e4 : (ksTurn n s).2.keyb = s.keyb := rfl
      simp only [e1, e2, e3, e4]

/-- Byte `i` of KS is KSBYTE (R156). -/
theorem keystream_getElem? (n : Nonce) (nbytes i : Nat) (s : State) (hi : i < nbytes) :
    (keystream n nbytes s).1[i]? = some (ksByte s.keyb n i) :=
  ksLoop_getElem? n _ nbytes i 1 _ (by simp only [blocksFor]; omega) hi rfl

/-- Bytes grouped in fours, each group the word `g j`. -/
theorem wordsOfBytes_flatMap (f : Nat → Byte) (g : Nat → Word) (hf : ∀ j,
    le32 (f (4*j)) (f (4*j+1)) (f (4*j+2)) (f (4*j+3)) = g j) (m : Nat) :
   wordsOfBytes ((List.range (4 * m)).map f) = (List.range m).map g := by
  induction m generalizing f g with
  | zero => rfl
  | succ m ih =>
    have e : List.range (4 * (m + 1)) = 0 :: 1 :: 2 :: 3 :: (List.range (4 * m)).map (· + 4) := by
      rw [show 4 * (m + 1) = 4 * m + 1 + 1 + 1 + 1 by omega]
      simp [List.range_succ_eq_map]
    rw [e]
    simp only [List.map_cons, List.map_map, wordsOfBytes]
    rw [List.range_succ_eq_map]
    simp only [List.map_cons, List.map_map]
    rw [← hf 0]
    congr 1
    exact ih (f ∘ (· + 4)) (g ∘ Nat.succ) (by intro j; simp only [Function.comp]; rw [← hf (j+1)]; congr 2)

/-- LE32 of the four bytes of a word is the word (R12). -/
theorem le32_byteOf (w : Word) : le32 (byteOf w 0) (byteOf w 1) (byteOf w 2) (byteOf w 3) = w := by
  rw [← BitVec.toNat_inj]
  simp [le32, byteOf, BitVec.extractLsb'_toNat, Nat.shiftRight_eq_div_pow]
  omega

/-- Four consecutive KSBYTEs are the KSWORD they belong to (R156). -/
theorem ksWord_eq (k : Key) (n : Nonce) (j : Nat) :
   le32 (ksByte k n (4*j)) (ksByte k n (4*j+1)) (ksByte k n (4*j+2)) (ksByte k n (4*j+3)) = ksWord k n j := by
  have e0 : ∀ c, c < 4 → (4*j+c)/64 = j/16 := by intro c hc; omega
  have e1 : ∀ c, c < 4 → (4*j+c)%64/4 = j%16 := by intro c hc; omega
  have e2 : ∀ c, c < 4 → (4*j+c)%4 = c := by intro c hc; omega
  have a0 := e0 0 (by omega); have a1 := e1 0 (by omega); have a2 := e2 0 (by omega)
  simp only [Nat.add_zero] at a0 a1 a2
  simp only [ksByte, ksWord, a0, a1, a2,
      e0 1 (by omega), e1 1 (by omega), e2 1 (by omega), e0 2 (by omega), e1 2 (by omega), e2 2 (by omega), e0 3 (by omega), e1 3 (by omega), e2 3 (by omega)]
  exact le32_byteOf _

/-- The two ways GENBITS can end (R160, R271): an error raised, or the keystream delivered. -/
theorem genbits_outcomes (s : State) :
    (∃ e, exec .genbits s = .next (raise e (callStart s)) ∧ (e = .invalidInputLength ∨ e = .counterExhausted)) ∨
    (inputsValid s = true ∧ ceil8 s.len.toNat ≤ maxKsBytes ∧
      exec .genbits s = .next (deliver (ceil8 s.len.toNat) (s.len.toNat % 8) (callStart s))) := by
  simp only [exec, execGenbits]
  split
  · exact .inl ⟨_, rfl, .inl rfl⟩
  · rename_i hv
    split
    · exact .inl ⟨_, rfl, .inr rfl⟩
    · rename_i hl
      exact .inr ⟨by simpa [inputsValid] using hv, by simpa using hl, rfl⟩

/-- The two ways GENWORDS can end (R162, R271): an error raised, or the keystream delivered. -/
theorem genwords_outcomes (s : State) :
    (∃ e, exec .genwords s = .next (raise e (callStart s)) ∧ (e = .invalidInputLength ∨ e = .counterExhausted)) ∨
    (inputsValid s = true ∧ 4 * s.len.toNat ≤ maxKsBytes ∧
      exec .genwords s = .next (deliver (4 * s.len.toNat) 0 (callStart s))) := by
  simp only [exec, execGenwords]
  split
  · exact .inl ⟨_, rfl, .inl rfl⟩
  · rename_i hv
    split
    · exact .inl ⟨_, rfl, .inr rfl⟩
    · rename_i hl
      refine .inr ⟨by simpa [inputsValid] using hv, ?_, rfl⟩
      simp [maxKsBytes] at *; omega

end Sys2Proof.Machine
end

