-- ==== Sys2Proof/Laws/Memory.lean ====
section
/-! SUPPORT. The laws of the entry-indexed memories: a read after a write, the canonical form kept by every operation, and
what a memory made from a list holds. -/

namespace Sys2Proof.Machine

theorem memory_read_write_same {α : Type} (m : Memory α) (i : Nat) (v : α) :
    Memory.read (Memory.write m i v) i = some v := by
  induction m with
  | nil => simp [Memory.write, Memory.read]
  | cons p m ih =>
    obtain ⟨j, u⟩ := p
    simp only [Memory.write]
    split
    · simp [Memory.read]
    · split
      · simp [Memory.read]
      · simp [Memory.read, *]

theorem memory_read_write_other {α : Type} (m : Memory α) {i k : Nat} (v : α) (h : k ≠ i) :
    Memory.read (Memory.write m i v) k = Memory.read m k := by
  induction m with
  | nil => simp [Memory.write, Memory.read, h]
  | cons p m ih =>
    obtain ⟨j, u⟩ := p
    simp only [Memory.write]
    split
    · simp [Memory.read, h]
    · split
      · rename_i hij
        subst hij
        simp [Memory.read, h]
      · simp [Memory.read, ih]

/-- A memory that rises from a bound still does after a write above the bound. -/
theorem memory_risesFrom_write {α : Type} (m : Memory α) (k : Option Nat) (i : Nat) (v : α)
    (hm : Memory.risesFrom k m = true) (hk : ∀ j, k = some j → j < i) :
    Memory.risesFrom k (Memory.write m i v) = true := by
  induction m generalizing k with
  | nil =>
    cases k with
    | none => simp [Memory.write, Memory.risesFrom]
    | some j => simp [Memory.write, Memory.risesFrom, hk j rfl]
  | cons p m ih =>
    obtain ⟨j, u⟩ := p
    have hj : Memory.risesFrom (some j) m = true := by
      cases k <;> simp_all [Memory.risesFrom]
    simp only [Memory.write]
    split
    · rename_i hij
      cases k <;> simp_all [Memory.risesFrom]
    · split
      · rename_i hij
        subst hij
        cases k <;> simp_all [Memory.risesFrom]
      · rename_i h1 h2
        have := ih (some j) hj (by intro x hx; cases hx; omega)
        cases k <;> simp_all [Memory.risesFrom]

/-- A write keeps the canonical form. -/
theorem memory_wf_write {α : Type} (m : Memory α) (i : Nat) (v : α) (hm : Memory.wf m = true) :
    Memory.wf (Memory.write m i v) = true :=
  memory_risesFrom_write m none i v hm (by intro j hj; cases hj)

theorem memory_risesFrom_fromList {α : Type} (l : List α) (k j : Nat) (h : j < k) :
    Memory.risesFrom (some j) (Memory.fromList k l) = true := by
  induction l generalizing k j with
  | nil => simp [Memory.fromList, Memory.risesFrom]
  | cons v l ih => simp [Memory.fromList, Memory.risesFrom, h, ih (k + 1) k (by omega)]

/-- A memory made from a list has the canonical form. -/
theorem memory_wf_fromList {α : Type} (l : List α) (k : Nat) : Memory.wf (Memory.fromList k l) = true := by
  cases l with
  | nil => rfl
  | cons v l => exact memory_risesFrom_fromList l (k + 1) k (by omega)

/-- The empty memory has the canonical form. -/
theorem memory_wf_nil {α : Type} : Memory.wf ([] : Memory α) = true := rfl

theorem memory_read_fromList_below {α : Type} (l : List α) (k i : Nat) (h : i < k) :
    Memory.read (Memory.fromList k l) i = none := by
  induction l generalizing k with
  | nil => rfl
  | cons v l ih =>
    have : i ≠ k := by omega
    simp [Memory.fromList, Memory.read, this, ih (k + 1) (by omega)]

theorem memory_read_fromList_add {α : Type} (l : List α) (k i : Nat) :
    Memory.read (Memory.fromList k l) (k + i) = l[i]? := by
  induction l generalizing k i with
  | nil => simp [Memory.fromList, Memory.read]
  | cons v l ih =>
    cases i with
    | zero => simp [Memory.fromList, Memory.read]
    | succ i =>
      have := ih (k + 1) i
      simp only [Memory.fromList, Memory.read]
      rw [if_neg (by omega)]
      simpa [show k + 1 + i = k + (i + 1) by omega] using this

/-- What a memory made from a list reads as. -/
theorem memory_read_fromList {α : Type} (l : List α) (i : Nat) : Memory.read (Memory.fromList 0 l) i = l[i]? := by
  simpa using memory_read_fromList_add l 0 i

/-- Writing just past the end of a memory made from a list appends to the list. -/
theorem memory_write_fromList_end {α : Type} (l : List α) (k : Nat) (v : α) :
    Memory.write (Memory.fromList k l) (k + l.length) v = Memory.fromList k (l ++ [v]) := by
  induction l generalizing k with
  | nil => simp [Memory.fromList, Memory.write]
  | cons u l ih =>
    have := ih (k + 1)
    simp only [Memory.fromList, Memory.write, List.length_cons, List.cons_append]
    rw [if_neg (by omega), if_neg (by omega)]
    simp [← this, show k + (l.length + 1) = k + 1 + l.length by omega]

/-- Writing inside a memory made from a list sets that place of the list. -/
theorem memory_write_fromList_inside {α : Type} (l : List α) (k i : Nat) (v : α) (h : i < l.length) :
    Memory.write (Memory.fromList k l) (k + i) v = Memory.fromList k (l.set i v) := by
  induction l generalizing k i with
  | nil => simp at h
  | cons u l ih =>
    cases i with
    | zero => simp [Memory.fromList, Memory.write]
    | succ i =>
      have := ih (k + 1) i (by simpa using h)
      simp only [Memory.fromList, Memory.write, List.set_cons_succ]
      rw [if_neg (by omega), if_neg (by omega)]
      simp [← this, show k + (i + 1) = k + 1 + i by omega]

end Sys2Proof.Machine
end

