-- ==== Sys2Proof/Laws/Pool.lean ====
section
/-! SUPPORT. What the Keystream Pool can do, once per operation: REFILL, NEXTWORD, and any number of NEXTWORDs from DRAWINIT
on. -/

namespace Sys2Proof.Machine

/-- The words of a whole number of words of keystream are the KSWORDs (R156, R183). -/
theorem words_keystream (n : Nonce) (m : Nat) (s : State) :
    wordsOfBytes (keystream n (4 * m) s).1 = (List.range m).map (ksWord s.keyb n) := by
  have h : (keystream n (4 * m) s).1 = (List.range (4 * m)).map (ksByte s.keyb n) := by
    apply List.ext_getElem?
    intro i
    by_cases h : i < 4 * m
    · rw [keystream_getElem? n _ i s h]; simp [h]
    · rw [List.getElem?_eq_none (by rw [keystream_length]; omega), List.getElem?_eq_none (by simp; omega)]
  rw [h]
  exact wordsOfBytes_flatMap _ _ (ksWord_eq _ _) m

/-- What the fill of the pool leaves (R183). -/
theorem fillPool_state (s : State) :
    ∃ a b, fillPool s =
      { s with
        sreg := a, xreg := b
        ctr := 1#32 + BitVec.ofNat 32 (blocksFor (4 * s.cfg.poolCap))
        pool := Memory.fromList 0 ((List.range s.cfg.poolCap).map (ksWord s.keyb s.wn))
        idx := 0#32
        haveReg := BitVec.ofNat 32 s.cfg.poolCap } := by
  obtain ⟨a, b, h⟩ := keystream_state s.wn (4 * s.cfg.poolCap) s
  refine ⟨a, b, ?_⟩
  simp only [fillPool, h, words_keystream]

/-- A refill that succeeds: everything it writes (R184). -/
theorem refill_done (s : State) (h1 : inputsValid s = true) (h2 : s.swrap = false) :
    ∃ a b, refill s = .done ()
      { s with
        sreg := a, xreg := b
        wn := workingNonce s.cfg.suffixOrder s.nonb s.suffix
        suffix := s.suffix + 1#32
        swrap := s.suffix == 0xFFFFFFFF#32
        ctr := 1#32 + BitVec.ofNat 32 (blocksFor (4 * s.cfg.poolCap))
        pool := Memory.fromList 0 ((List.range s.cfg.poolCap).map (ksWord s.keyb
            (workingNonce s.cfg.suffixOrder s.nonb s.suffix)))
        idx := 0#32
        haveReg := BitVec.ofNat 32 s.cfg.poolCap } := by
  obtain ⟨a, b, h⟩ := fillPool_state (advanceSuffix (setWorkingNonce s))
  refine ⟨a, b, ?_⟩
  rw [refill, if_neg (by simp [h1]), if_neg (by simp [h2]), h]
  simp [advanceSuffix, setWorkingNonce, h2]

/-- What NEXTWORD and SAMPLE never write: everything but S, X, CTR, WN, SUFFIX, SWRAP, POOL, IDX and HAVE. -/
structure PoolFrame (s t : State) : Prop where
  cfg : t.cfg = s.cfg
  host : t.host = s.host
  freeNext : t.freeNext = s.freeNext
  keyb : t.keyb = s.keyb
  klen : t.klen = s.klen
  nonb : t.nonb = s.nonb
  nlen : t.nlen = s.nlen
  len : t.len = s.len
  count : t.count = s.count
  modulus : t.modulus = s.modulus
  limit : t.limit = s.limit
  out : t.out = s.out
  outLen : t.outLen = s.outLen
  busy : t.busy = s.busy
  done : t.done = s.done
  errCode : t.errCode = s.errCode
  errSub : t.errSub = s.errSub
  esticky : t.esticky = s.esticky
  seen : t.seen = s.seen
  res : t.res = s.res
  rcnt : t.rcnt = s.rcnt

/-- What the loop of DRAW never writes: PoolFrame without SEEN, RES and RCNT. -/
structure LoopFrame (s t : State) : Prop where
  cfg : t.cfg = s.cfg
  host : t.host = s.host
  freeNext : t.freeNext = s.freeNext
  keyb : t.keyb = s.keyb
  klen : t.klen = s.klen
  nonb : t.nonb = s.nonb
  nlen : t.nlen = s.nlen
  len : t.len = s.len
  count : t.count = s.count
  modulus : t.modulus = s.modulus
  limit : t.limit = s.limit
  out : t.out = s.out
  outLen : t.outLen = s.outLen
  busy : t.busy = s.busy
  done : t.done = s.done
  errCode : t.errCode = s.errCode
  errSub : t.errSub = s.errSub
  esticky : t.esticky = s.esticky

theorem PoolFrame.trans {s t u : State} (h1 : PoolFrame s t) (h2 : PoolFrame t u) : PoolFrame s u :=
  ⟨h2.cfg.trans h1.cfg, h2.host.trans h1.host, h2.freeNext.trans h1.freeNext, h2.keyb.trans h1.keyb,
      h2.klen.trans h1.klen, h2.nonb.trans h1.nonb, h2.nlen.trans h1.nlen, h2.len.trans h1.len,
          h2.count.trans h1.count, h2.modulus.trans h1.modulus, h2.limit.trans h1.limit, h2.out.trans h1.out,
              h2.outLen.trans h1.outLen, h2.busy.trans h1.busy, h2.done.trans h1.done, h2.errCode.trans h1.errCode,
                  h2.errSub.trans h1.errSub, h2.esticky.trans h1.esticky, h2.seen.trans h1.seen, h2.res.trans h1.res,
                      h2.rcnt.trans h1.rcnt⟩

theorem PoolFrame.refl (s : State) : PoolFrame s s := ⟨rfl, rfl, rfl, rfl, rfl, rfl, rfl, rfl, rfl, rfl, rfl, rfl,
    rfl, rfl, rfl, rfl, rfl, rfl, rfl, rfl, rfl⟩

/-- Where a draw stands after `t` words of its stream (R188): the cursor, the fill level, the suffix and the pool. Support
for proofs about DRAW. -/
structure DrawAt (t : Nat) (s : State) : Prop where
  valid : inputsValid s = true
  bound : t ≤ streamLength s.cfg
  start : t = 0 → s.idx = 0#32 ∧ s.haveReg = 0#32 ∧ s.suffix = 0#32 ∧ s.swrap = false
  filled : t ≠ 0 → s.idx.toNat = (t - 1) % s.cfg.poolCap + 1 ∧ s.haveReg.toNat = s.cfg.poolCap ∧
    s.suffix.toNat = ((t - 1) / s.cfg.poolCap + 1) % 4294967296 ∧
    s.swrap = decide ((t - 1) / s.cfg.poolCap + 1 = 4294967296) ∧
    s.ctr = 1#32 + BitVec.ofNat 32 (blocksFor (4 * s.cfg.poolCap)) ∧
    s.pool = Memory.fromList 0 ((List.range s.cfg.poolCap).map
      (ksWord s.keyb (workingNonce s.cfg.suffixOrder s.nonb (BitVec.ofNat 32 ((t - 1) / s.cfg.poolCap)))))

/-- Quotient and remainder of the number before. -/
theorem pred_div_mod {C t : Nat} (hC : 0 < C) (h0 : t ≠ 0) :
    (t % C = 0 → (t - 1) % C + 1 = C ∧ (t - 1) / C + 1 = t / C) ∧
    (t % C ≠ 0 → (t - 1) % C + 1 = t % C ∧ (t - 1) / C = t / C) := by
  have e := Nat.div_add_mod t C
  have l := Nat.mod_lt t hC
  generalize hq : t / C = q at *
  generalize hr : t % C = r at *
  constructor
  · rintro rfl
    obtain ⟨p, rfl⟩ : ∃ p, q = p + 1 := ⟨q - 1, by cases q; simp at e; omega; simp⟩
    have : t - 1 = C * p + (C - 1) := by rw [← e, Nat.mul_add]; omega
    rw [this, Nat.mul_add_mod, Nat.mod_eq_of_lt (by omega), Nat.mul_add_div hC, Nat.div_eq_of_lt (by omega : C - 1 < C)]
    omega
  · intro hr0
    have : t - 1 = C * q + (r - 1) := by omega
    rw [this, Nat.mul_add_mod, Nat.mod_eq_of_lt (by omega), Nat.mul_add_div hC, Nat.div_eq_of_lt (by omega : r - 1 < C)]
    omega

/-- The pool is empty exactly after a whole number of pools (R186). -/
theorem drawAt_empty_iff {t : Nat} {s : State} (h : DrawAt t s) : s.idx = s.haveReg ↔ t % s.cfg.poolCap = 0 := by
  have hp := s.cfg.poolCap_pos
  by_cases h0 : t = 0
  · obtain ⟨h1, h2, -⟩ := h.start h0; simp [h1, h2, h0]
  · obtain ⟨h1, h2, -⟩ := h.filled h0
    obtain ⟨e1, e2⟩ := pred_div_mod hp h0
    have := Nat.mod_lt t hp
    rw [← BitVec.toNat_inj, h1, h2]
    by_cases hm : t % s.cfg.poolCap = 0
    · simp [hm, e1]
    · rw [(e2 hm).1]; omega

/-- NEXTWORD with an empty pool and a refill that succeeds (R186). -/
theorem nextWord_refill {s s' : State} (he : s.idx = s.haveReg) (hr : refill s = .done () s') (r : Word)
    (hf : Memory.read s'.pool s'.idx.toNat = some r) :
    nextWord s = .done r { s' with idx := s'.idx + 1#32 } := by
  simp [nextWord, refillIfEmpty, he, hr, Micro.bind, takeWord, fetchEntry, hf]

/-- NEXTWORD with a word in the pool (R186). -/
theorem nextWord_pool {s : State} (he : s.idx ≠ s.haveReg) (r : Word) (hf : Memory.read s.pool s.idx.toNat = some r) :
    nextWord s = .done r { s with idx := s.idx + 1#32 } := by
  simp [nextWord, refillIfEmpty, he, Micro.bind, takeWord, fetchEntry, hf]

/-- SUFFIX and SWRAP when the pool is empty (R182). -/
theorem drawAt_suffix {t : Nat} {s : State} (h : DrawAt t s) (hm : t % s.cfg.poolCap = 0) :
    s.suffix = BitVec.ofNat 32 (t / s.cfg.poolCap) ∧ s.swrap = decide (t = streamLength s.cfg) := by
  have hp := s.cfg.poolCap_pos
  by_cases h0 : t = 0
  · obtain ⟨_, _, h3, h4⟩ := h.start h0
    subst h0
    simp [h3, h4, streamLength]; omega
  · obtain ⟨_, _, h3, h4, _⟩ := h.filled h0
    rw [((pred_div_mod hp h0).1 hm).2] at h3 h4
    refine ⟨by rw [← BitVec.toNat_inj, h3]; simp, ?_⟩
    rw [h4, streamLength]
    obtain ⟨q, hq⟩ := Nat.dvd_of_mod_eq_zero hm
    rw [show t / s.cfg.poolCap = q by rw [hq, Nat.mul_div_cancel_left _ hp]]
    have : t = 4294967296 * s.cfg.poolCap ↔ q = 4294967296 := by
      rw [hq, Nat.mul_comm 4294967296]; exact Nat.mul_right_inj (by omega)
    simp [this]

/-- NEXTWORD inside the stream returns its next word (R188). -/
theorem nextWord_at {t : Nat} {s : State} (h : DrawAt t s) (ht : t < streamLength s.cfg) :
    ∃ s', nextWord s = .done (streamWord s.cfg s.keyb s.nonb t) s' ∧ DrawAt (t + 1) s' ∧ PoolFrame s s' := by
  have hp := s.cfg.poolCap_pos
  have hc := s.cfg.poolCap_le
  have hv := h.valid
  by_cases hm : t % s.cfg.poolCap = 0
  · obtain ⟨hsu, hsw⟩ := drawAt_suffix h hm
    obtain ⟨a, b, hr⟩ := refill_done s hv (by rw [hsw]; simp; omega)
    refine ⟨_, nextWord_refill ((drawAt_empty_iff h).2 hm) hr _ ?_, ⟨hv, ht,
        by simp, ?_⟩, ⟨rfl, rfl, rfl, rfl, rfl, rfl, rfl, rfl, rfl, rfl, rfl, rfl, rfl, rfl, rfl, rfl, rfl, rfl, rfl, rfl, rfl⟩⟩
    · simp [memory_read_fromList, show 0 < s.cfg.poolCap by omega, streamWord, hm, hsu]
    · have : t / s.cfg.poolCap < 4294967296 := Nat.div_lt_of_lt_mul (by rw [Nat.mul_comm]; exact ht)
      simp only [Nat.add_sub_cancel, hm, hsu]
      generalize t / s.cfg.poolCap = q at *
      simp [beq_eq_decide, ← BitVec.toNat_inj]
      omega
  · have h0 : t ≠ 0 := by rintro rfl; simp at hm
    obtain ⟨h1, h2, h3, h4, h5, h6⟩ := h.filled h0
    have e := (pred_div_mod hp h0).2 hm
    have := Nat.mod_lt t hp
    refine ⟨_, nextWord_pool (fun he => hm ((drawAt_empty_iff h).1 he)) _ ?_, ⟨hv, ht,
        by simp, ?_⟩, ⟨rfl, rfl, rfl, rfl, rfl, rfl, rfl, rfl, rfl, rfl, rfl, rfl, rfl, rfl, rfl, rfl, rfl, rfl, rfl, rfl, rfl⟩⟩
    · rw [h6, memory_read_fromList, h1, e.1, e.2]; simp [this, streamWord]
    · rw [e.2] at h3 h4 h6
      simp [h1, h2, h3, h4, h5, h6, e]; omega

/-- NEXTWORD at the end of the stream raises PoolExhausted with SUB = 6 (R184). -/
theorem nextWord_end {t : Nat} {s : State} (h : DrawAt t s) (ht : t = streamLength s.cfg) :
    nextWord s = .raised (raise (.poolExhausted .suffixExhausted) s) := by
  have hp := s.cfg.poolCap_pos
  have hm : t % s.cfg.poolCap = 0 := by rw [ht, streamLength]; simp
  obtain ⟨hsu, hsw⟩ := drawAt_suffix h hm
  simp [nextWord, refillIfEmpty, (drawAt_empty_iff h).2 hm, refill, h.valid, hsw, ht, Micro.bind]

/-- NEXTWORD with an empty pool and a wrong length raises PoolExhausted with SUB = 2 (R184). -/
theorem nextWord_invalid {s : State} (h : inputsValid s = false) (he : s.idx = s.haveReg) :
    nextWord s = .raised (raise (.poolExhausted .invalidInputLength) s) := by
  simp [nextWord, refillIfEmpty, refill, h, Micro.bind, he]

/-- After DRAWINIT no word has been taken (R216). -/
theorem drawAt_init (s : State) (h : inputsValid s = true) : DrawAt 0 (drawInit s) :=
  ⟨h, Nat.zero_le _, fun _ => ⟨rfl, rfl, rfl, rfl⟩, fun h => absurd rfl h⟩

/-- `n` NEXTWORDs inside the stream. -/
theorem takeWords_at (n t : Nat) (s : State) (h : DrawAt t s) (hn : t + n ≤ streamLength s.cfg) :
    ∃ s', takeWords n s = .done ((List.range n).map fun i => streamWord s.cfg s.keyb s.nonb (t + i)) s' ∧
        DrawAt (t + n) s' ∧ PoolFrame s s' := by
  induction n generalizing t s with
  | zero => exact ⟨s, rfl, h, .refl s⟩
  | succ n ih =>
    obtain ⟨s1, e1, d1, f1⟩ := nextWord_at h (by omega)
    have hk : s1.cfg = s.cfg ∧ s1.keyb = s.keyb ∧ s1.nonb = s.nonb := ⟨f1.cfg, f1.keyb, f1.nonb⟩
    obtain ⟨s2, e2, d2, f2⟩ := ih (t + 1) s1 d1 (by rw [hk.1]; omega)
    refine ⟨s2, ?_, by rw [← Nat.add_assoc, Nat.add_right_comm]; exact d2, f1.trans f2⟩
    simp only [takeWords, e1, Micro.bind, e2, hk]
    rw [List.range_succ_eq_map]
    simp [Function.comp_def, Nat.add_comm, Nat.add_left_comm]

/-- NEXTWORD, from any state, when it returns a word: what it leaves unchanged (R186). -/
theorem nextWord_frame {s t : State} {r : Word} (h : nextWord s = .done r t) : PoolFrame s t := by
  have key : ∀ u, takeWord u = .done r t → PoolFrame u t := by
    intro u hu
    simp only [takeWord, fetchEntry] at hu
    split at hu
    · cases hu; exact ⟨rfl, rfl, rfl, rfl, rfl, rfl, rfl, rfl, rfl, rfl, rfl, rfl, rfl, rfl, rfl, rfl, rfl, rfl, rfl,
        rfl, rfl⟩
    · cases hu
  simp only [nextWord, refillIfEmpty] at h
  split at h
  · rcases hv : inputsValid s with _ | _
    · simp [refill, hv, Micro.bind] at h
    · rcases hs : s.swrap with _ | _
      · obtain ⟨a, b, hr⟩ := refill_done s hv hs
        rw [hr] at h
        refine PoolFrame.trans ?_ (key _ h)
        exact ⟨rfl, rfl, rfl, rfl, rfl, rfl, rfl, rfl, rfl, rfl, rfl, rfl, rfl, rfl, rfl, rfl, rfl, rfl, rfl, rfl, rfl⟩
      · simp [refill, hv, hs, Micro.bind] at h
  · exact key _ h

end Sys2Proof.Machine
end

