-- ==== Sys2Proof/Laws/Draw.lean ====
section
/-! SUPPORT. What the Sampler and the Unique Draw Engine can do, once per operation: SAMPLE, DRAWSTEP, the loop of DRAW, and
the ways DRAW can end. -/

namespace Sys2Proof.Machine

/-- The candidates of more words begin with those of fewer. -/
theorem candidates_mono_prefix (c : Config) (k : Key) (n : Nonce) (m : Word) (a b : Nat) : ∃ l,
    candidates c k n m (a + b) = candidates c k n m a ++ l := by
  induction b with
  | zero => exact ⟨[], by simp⟩
  | succ b ih =>
    obtain ⟨l, h⟩ := ih
    exact ⟨l ++ _, by rw [← Nat.add_assoc, candidates, h, List.append_assoc]⟩

/-- One more value is dropped when it was there and appended otherwise (R217, R220). -/
theorem firstOccurrences_snoc (l : List Word) (v : Word) :
    firstOccurrences (l ++ [v]) = if v ∈ firstOccurrences l then firstOccurrences l else firstOccurrences l ++ [v] := by
  rw [firstOccurrences, List.foldl_append]; rfl

/-- First occurrences of a longer list begin with those of the shorter. -/
theorem firstOccurrences_extends (l r : List Word) : ∃ x, firstOccurrences (l ++ r) = firstOccurrences l ++ x := by
  induction r using List.reverseRecOn with
  | nil => exact ⟨[], by simp⟩
  | append_singleton r v ih =>
    obtain ⟨x, h⟩ := ih
    rw [← List.append_assoc, firstOccurrences_snoc, h]
    split
    · exact ⟨x, rfl⟩
    · exact ⟨x ++ [v], by simp⟩

/-- First occurrences are pairwise distinct. -/
theorem firstOccurrences_nodup (l : List Word) : (firstOccurrences l).Nodup := by
  induction l using List.reverseRecOn with
  | nil => simp [firstOccurrences]
  | append_singleton l v ih =>
    rw [firstOccurrences_snoc]; split
    · exact ih
    · rw [List.nodup_append]; simp [ih]; intro a ha hb; subst hb; contradiction

/-- What has been drawn later begins with what had been drawn before. -/
theorem drawnAfter_extends (c : Config) (k : Key) (n : Nonce) (m : Word) {a b : Nat} (h : a ≤ b) : ∃ x,
    drawnAfter c k n m b = drawnAfter c k n m a ++ x := by
  obtain ⟨d, rfl⟩ := Nat.exists_eq_add_of_le h
  obtain ⟨l, hl⟩ := candidates_mono_prefix c k n m a d
  rw [drawnAfter, hl]; exact firstOccurrences_extends _ _

/-- The number of values drawn never falls. -/
theorem drawnAfter_mono (c : Config) (k : Key) (n : Nonce) (m : Word) {a b : Nat} (h : a ≤ b) :
    (drawnAfter c k n m a).length ≤ (drawnAfter c k n m b).length := by
  obtain ⟨x, hx⟩ := drawnAfter_extends c k n m h
  rw [hx]; simp

/-- The draw's stream depends on POOL_CAP and SUFFIX_ORDER only, of all the configuration (R188, R219 (e)). -/
theorem streamWord_congr {c d : Config} (hp : c.poolCap = d.poolCap) (ho : c.suffixOrder = d.suffixOrder) :
    streamWord c = streamWord d := by
  funext k n t; simp [streamWord, hp, ho]

/-- What is drawn depends on POOL_CAP and SUFFIX_ORDER only, of all the configuration (R219 (e)). -/
theorem drawnAfter_congr {c d : Config} (hp : c.poolCap = d.poolCap) (ho : c.suffixOrder = d.suffixOrder) :
    drawnAfter c = drawnAfter d := by
  have h : ∀ k n m t, candidates c k n m t = candidates d k n m t := by
    intro k n m t
    induction t with
    | zero => rfl
    | succ t ih => simp [candidates, ih, streamWord_congr hp ho]
  funext k n m t; simp [drawnAfter, h]

/-- A value is below its modulus (R203). -/
theorem valueOf_lt (w m : Word) (hm : 0 < m.toNat) : (valueOf w m).toNat < m.toNat := by
    have := Nat.mod_lt w.toNat hm
    have := m.isLt
    simp [valueOf]; rw [Nat.mod_eq_of_lt (by omega)]; assumption

/-- Every drawn value is below the modulus (R219). -/
theorem drawnAfter_lt (c : Config) (k : Key) (n : Nonce) (m : Word) (hm : 0 < m.toNat)
    (a : Nat) : ∀ v ∈ drawnAfter c k n m a, v.toNat < m.toNat := by
  have hv : ∀ w : Word, (valueOf w m).toNat < m.toNat := by
    intro w
    have := Nat.mod_lt w.toNat hm
    have := m.isLt
    simp [valueOf]; rw [Nat.mod_eq_of_lt (by omega)]; assumption
  induction a with
  | zero => simp [drawnAfter, candidates, firstOccurrences]
  | succ a ih =>
    intro v
    simp only [drawnAfter, candidates] at *
    split
    · rw [firstOccurrences_snoc]; split
      · exact ih v
      · intro h; rcases List.mem_append.1 h with h | h
        · exact ih v h
        · simp at h; subst h; exact hv _
    · simpa using ih v

/-- SAMPLE from word `t` on: it stops at the first accepted word, or the stream ends (R203). -/
theorem sampleLoop_at (fuel t : Nat) (s : State) (h : DrawAt t s) (hl : s.limit = limitOf s.modulus)
    (hf : streamLength s.cfg < fuel + t) :
    (∃ u s', t ≤ u ∧ u < streamLength s.cfg ∧
        sampleLoop fuel s = .done (valueOf (streamWord s.cfg s.keyb s.nonb u) s.modulus) s' ∧
      DrawAt (u + 1) s' ∧ PoolFrame s s' ∧
      candidates s.cfg s.keyb s.nonb s.modulus u = candidates s.cfg s.keyb s.nonb s.modulus t ∧
      candidates s.cfg s.keyb s.nonb s.modulus (u + 1) =
        candidates s.cfg s.keyb s.nonb s.modulus t ++ [valueOf (streamWord s.cfg s.keyb s.nonb u) s.modulus]) ∨
    (∃ s', sampleLoop fuel s = .raised (raise (.poolExhausted .suffixExhausted) s') ∧ DrawAt (streamLength s.cfg) s' ∧
        PoolFrame s s' ∧
      candidates s.cfg s.keyb s.nonb s.modulus (streamLength s.cfg) = candidates s.cfg s.keyb s.nonb s.modulus t) := by
  induction fuel generalizing t s with
  | zero => have := h.bound; omega
  | succ fuel ih =>
    rcases Nat.lt_or_ge t (streamLength s.cfg) with ht | ht
    · obtain ⟨s1, e1, d1, f1⟩ := nextWord_at h ht
      have fr : s1.modulus = s.modulus ∧ s1.cfg = s.cfg ∧ s1.keyb = s.keyb ∧ s1.nonb = s.nonb ∧
          s1.limit = s.limit := ⟨f1.modulus, f1.cfg, f1.keyb, f1.nonb, f1.limit⟩
      by_cases ha : acceptWord (streamWord s.cfg s.keyb s.nonb t) s.limit = true
      · left
        refine ⟨t, s1, Nat.le_refl _, ht, ?_, d1, f1, rfl, ?_⟩
        · simp only [sampleLoop, e1, Micro.bind, fr, ha, if_true]
        · simp [candidates, ← hl, ha]
      · have hc : candidates s.cfg s.keyb s.nonb s.modulus (t + 1) = candidates s.cfg s.keyb s.nonb s.modulus t := by
          simp [candidates, ← hl, ha]
        have hs : sampleLoop (fuel + 1) s = sampleLoop fuel s1 := by
          simp only [sampleLoop, e1, Micro.bind, fr, ha]; rfl
        rw [hs]
        have := ih (t + 1) s1 d1 (by rw [fr.2.2.2.2, fr.1]; exact hl) (by rw [fr.2.1]; omega)
        simp only [fr, hc] at this
        rcases this with ⟨u, s2, h1, h2, h3, h4, h5, h6, h7⟩ | ⟨s2, h3, h4, h5, h6⟩
        · exact .inl ⟨u, s2, by omega, h2, h3, h4, f1.trans h5, h6, h7⟩
        · exact .inr ⟨s2, h3, h4, f1.trans h5, h6⟩
    · have := h.bound
      obtain rfl : t = streamLength s.cfg := by omega
      right
      exact ⟨s, by simp [sampleLoop, nextWord_end h rfl, Micro.bind], h, .refl s, rfl⟩

theorem LoopFrame.trans {s t u : State} (h1 : LoopFrame s t) (h2 : LoopFrame t u) : LoopFrame s u :=
  ⟨h2.cfg.trans h1.cfg, h2.host.trans h1.host, h2.freeNext.trans h1.freeNext, h2.keyb.trans h1.keyb,
      h2.klen.trans h1.klen, h2.nonb.trans h1.nonb, h2.nlen.trans h1.nlen, h2.len.trans h1.len,
          h2.count.trans h1.count, h2.modulus.trans h1.modulus, h2.limit.trans h1.limit, h2.out.trans h1.out,
              h2.outLen.trans h1.outLen, h2.busy.trans h1.busy, h2.done.trans h1.done, h2.errCode.trans h1.errCode,
                  h2.errSub.trans h1.errSub, h2.esticky.trans h1.esticky⟩

theorem LoopFrame.refl (s : State) : LoopFrame s s := ⟨rfl, rfl, rfl, rfl, rfl, rfl, rfl, rfl, rfl, rfl, rfl, rfl,
    rfl, rfl, rfl, rfl, rfl, rfl⟩

theorem PoolFrame.loop {s t : State} (h : PoolFrame s t) : LoopFrame s t :=
  ⟨h.cfg, h.host, h.freeNext, h.keyb, h.klen, h.nonb, h.nlen, h.len, h.count, h.modulus, h.limit, h.out, h.outLen,
      h.busy, h.done, h.errCode, h.errSub, h.esticky⟩

/-- The Result Set and the Seen-set after the values `vs` have been drawn (R217). Support for proofs about DRAW. -/
structure Collected (vs : List Word) (s : State) : Prop where
  limit : s.limit = limitOf s.modulus
  pos : 0 < s.modulus.toNat
  small : s.modulus.toNat ≤ 32768
  res : s.res = Memory.fromList 0 vs
  rcnt : s.rcnt.toNat = vs.length
  seen : ∀ v : Word, v.toNat < s.modulus.toNat → Memory.read s.seen v.toNat = some (decide (v ∈ vs))

/-- NEXTWORD and SAMPLE keep what has been collected. -/
theorem Collected.pool {vs : List Word} {s t : State} (h : Collected vs s) (hf : PoolFrame s t) : Collected vs t := by
  constructor
  · rw [hf.limit, hf.modulus]; exact h.limit
  · rw [hf.modulus]; exact h.pos
  · rw [hf.modulus]; exact h.small
  · rw [hf.res]; exact h.res
  · rw [hf.rcnt]; exact h.rcnt
  · rw [hf.modulus, hf.seen]; exact h.seen

/-- There are at most `m` distinct words below `m`. -/
theorem length_le_of_nodup_lt (vs : List Word) (m : Nat) (h : vs.Nodup) (hl : ∀ v ∈ vs, v.toNat < m) : vs.length ≤ m := by
  have h1 : (vs.map BitVec.toNat).Nodup := h.map (fun a b => BitVec.toNat_inj.1)
  have h2 : (vs.map BitVec.toNat) ⊆ List.range m := by intro x hx; simp at *; obtain ⟨v, hv, rfl⟩ := hx; exact hl v hv
  have := (h1.subperm h2).length_le
  simpa using this

/-- DRAWSTEP from word `t` on (R217). -/
theorem drawStep_at (t : Nat) (s : State) (h : DrawAt t s) (hc : Collected (drawnAfter s.cfg s.keyb s.nonb s.modulus t) s) :
    (∃ u s', t ≤ u ∧ u < streamLength s.cfg ∧ drawStep s = .done () s' ∧ DrawAt (u + 1) s' ∧ LoopFrame s s' ∧
      Collected (drawnAfter s.cfg s.keyb s.nonb s.modulus (u + 1)) s' ∧
      drawnAfter s.cfg s.keyb s.nonb s.modulus u = drawnAfter s.cfg s.keyb s.nonb s.modulus t) ∨
    (∃ s', drawStep s = .raised (raise (.poolExhausted .suffixExhausted) s') ∧ DrawAt (streamLength s.cfg) s' ∧
        LoopFrame s s' ∧
      drawnAfter s.cfg s.keyb s.nonb s.modulus (streamLength s.cfg) = drawnAfter s.cfg s.keyb s.nonb s.modulus t) := by
  rcases sampleLoop_at (drawFuel s) t s h hc.limit
      (by simp [drawFuel, streamLength]; omega) with ⟨u, s1, h1, h2, h3, h4, h5, h6, h7⟩ | ⟨s1, h3, h4, h5, h6⟩
  · left
    have c1 := hc.pool h5
    have hl := h5.loop
    have fr : s1.modulus = s.modulus ∧ s1.cfg = s.cfg ∧ s1.keyb = s.keyb ∧ s1.nonb = s.nonb := ⟨h5.modulus, h5.cfg,
        h5.keyb, h5.nonb⟩
    have hvl := valueOf_lt (streamWord s.cfg s.keyb s.nonb u) s.modulus hc.pos
    generalize hv : valueOf (streamWord s.cfg s.keyb s.nonb u) s.modulus = v at *
    have hr := c1.seen v (by rw [fr.1]; exact hvl)
    have hd : drawnAfter s.cfg s.keyb s.nonb s.modulus
        (u + 1) = if v ∈ drawnAfter s.cfg s.keyb s.nonb s.modulus t then drawnAfter s.cfg s.keyb s.nonb s.modulus t
            else drawnAfter s.cfg s.keyb s.nonb s.modulus t ++ [v] := by
      rw [drawnAfter, h7, firstOccurrences_snoc]; rfl
    have hu : drawnAfter s.cfg s.keyb s.nonb s.modulus u = drawnAfter s.cfg s.keyb s.nonb s.modulus t :=
        by rw [drawnAfter, h6]; rfl
    have hlen : (drawnAfter s.cfg s.keyb s.nonb s.modulus t).length ≤ s.modulus.toNat :=
      length_le_of_nodup_lt _ _ (firstOccurrences_nodup _) (drawnAfter_lt _ _ _ _ hc.pos t)
    generalize drawnAfter s.cfg s.keyb s.nonb s.modulus t = vs at *
    by_cases hin : v ∈ vs
    · refine ⟨u, s1, h1, h2, ?_, h4, hl, by rw [hd]; simpa [hin] using c1, hu⟩
      simp [drawStep, sample, h3, Micro.bind, fetchEntry, hr, hin]
    · refine ⟨u, appendResult v s1, h1, h2, ?_, ?_, ?_, ?_, hu⟩
      · simp [drawStep, sample, h3, Micro.bind, fetchEntry, hr, hin]
      · exact ⟨h4.1, h4.2, h4.3, h4.4⟩
      · exact hl.trans ⟨rfl, rfl, rfl, rfl, rfl, rfl, rfl, rfl, rfl, rfl, rfl, rfl, rfl, rfl, rfl, rfl, rfl, rfl⟩
      · rw [hd, if_neg hin]
        refine ⟨c1.limit, c1.pos, c1.small, ?_, ?_, ?_⟩
        · simp only [appendResult, c1.res, c1.rcnt]
          simpa using memory_write_fromList_end vs 0 v
        · have h32 := c1.small
          rw [fr.1] at h32
          have := c1.rcnt
          simp [appendResult]; omega
        · intro w hw
          simp only [appendResult]
          by_cases hwv : w = v
          · subst hwv; rw [memory_read_write_same]; simp
          · rw [memory_read_write_other _ _ (by intro hh; exact hwv (BitVec.toNat_inj.1 hh))]
            rw [c1.seen w hw]; simp [hwv]
  · right
    refine ⟨s1, ?_, h4, h5.loop, by rw [drawnAfter, h6]; rfl⟩
    simp [drawStep, sample, h3, Micro.bind]

/-- The loop of DRAW from word `t` on (R218): it ends with COUNT values, or the stream ends. -/
theorem drawLoop_at (fuel t : Nat) (s : State) (h : DrawAt t s) (hc : Collected
    (drawnAfter s.cfg s.keyb s.nonb s.modulus t) s)
    (hf : streamLength s.cfg < fuel + t) :
    (∃ n s', t ≤ n ∧ drawLoop fuel s = .done () s' ∧ DrawAt n s' ∧ LoopFrame s s' ∧
      Collected (drawnAfter s.cfg s.keyb s.nonb s.modulus n) s' ∧
      s.count.toNat ≤ (drawnAfter s.cfg s.keyb s.nonb s.modulus n).length ∧
      (t < n → (drawnAfter s.cfg s.keyb s.nonb s.modulus (n - 1)).length < s.count.toNat)) ∨
    (∃ s', drawLoop fuel s = .raised (raise (.poolExhausted .suffixExhausted) s') ∧ DrawAt (streamLength s.cfg) s' ∧
        LoopFrame s s' ∧
      (drawnAfter s.cfg s.keyb s.nonb s.modulus (streamLength s.cfg)).length < s.count.toNat) := by
  induction fuel generalizing t s with
  | zero => have := h.bound; omega
  | succ fuel ih =>
    by_cases hlt : s.rcnt.toNat < s.count.toNat
    · rcases drawStep_at t s h hc with ⟨u, s1, h1, h2, h3, h4, h5, h6, h7⟩ | ⟨s1, h3, h4, h5, h6⟩
      · have fr : s1.modulus = s.modulus ∧ s1.cfg = s.cfg ∧ s1.keyb = s.keyb ∧ s1.nonb = s.nonb ∧
          s1.count = s.count := ⟨h5.modulus, h5.cfg, h5.keyb, h5.nonb, h5.count⟩
        have e : drawLoop (fuel + 1) s = drawLoop fuel s1 := by simp only [drawLoop, hlt, if_true, h3, Micro.bind]
        rw [e]
        have hl := h5
        have := ih (u + 1) s1 h4 (by simpa only [fr] using h6) (by rw [fr.2.1]; omega)
        simp only [fr] at this
        rcases this with ⟨n, s2, g1, g2, g3, g4, g5, g6, g7⟩ | ⟨s2, g3, g4, g5, g6⟩
        · refine .inl ⟨n, s2, by omega, g2, g3, hl.trans g4, g5, g6, fun _ => ?_⟩
          rcases Nat.lt_or_ge (u + 1) n with hn | hn
          · exact g7 hn
          · obtain rfl : n = u + 1 := by omega
            simp only [Nat.add_sub_cancel, h7]; rw [← hc.rcnt]; exact hlt
        · exact .inr ⟨s2, g3, g4, hl.trans g5, g6⟩
      · exact .inr ⟨s1, by simp only [drawLoop, hlt, if_true, h3, Micro.bind], h4, h5, by rw [h6, ← hc.rcnt]; exact hlt⟩
    · refine .inl ⟨t, s, Nat.le_refl _,
        by simp [drawLoop, hlt], h, .refl s, hc, by rw [← hc.rcnt]; omega, fun h => absurd h (Nat.lt_irrefl _)⟩

/-- PARAMCHECK passes exactly for 1 ≤ COUNT ≤ MODULUS ≤ SEEN_CAP (R215). -/
theorem paramsValid_iff (s : State) : paramsValid s = true ↔ 1 ≤ s.count.toNat ∧ s.count.toNat ≤ s.modulus.toNat ∧
    s.modulus.toNat ≤ s.cfg.seenCap := by
  simp [paramsValid, ← BitVec.toNat_inj]; omega

/-- After DRAWINIT nothing has been drawn (R216). -/
theorem collected_init (s : State) (h : paramsValid s = true) : Collected [] (drawInit s) := by
  have := (paramsValid_iff s).1 h
  have := s.cfg.seenCap_le
  refine ⟨rfl, by simp; omega, by simp; omega, rfl, by simp, ?_⟩
  intro v hv
  simp only [drawInit_seen, memory_read_fromList] at *
  have hv : v.toNat < s.modulus.toNat := hv
  simp [hv]

/-- DRAW when its loop ends with a result. -/
theorem exec_draw_done {s s' : State} (hp : paramsValid (callStart s) = true)
    (h : drawLoop (drawFuel (callStart s)) (drawInit (callStart s)) = .done () s') :
    exec .draw s = .next (callOk (forgetDrawScope s')) := by
  simp only [exec, execDraw]
  rw [if_neg (by rw [hp]; decide), h]

/-- DRAW when its loop ends with an error raised. -/
theorem exec_draw_raised {s s' : State} (hp : paramsValid (callStart s) = true)
    (h : drawLoop (drawFuel (callStart s)) (drawInit (callStart s)) = .raised s') :
    exec .draw s = .next s' := by
  simp only [exec, execDraw]
  rw [if_neg (by rw [hp]; decide), h]

/-- DRAW with bad parameters (R215). -/
theorem draw_badParams (s : State) (hp : paramsValid s = false) : exec .draw s = .next (raise .invalidParameters
    (callStart s)) := by
  have : paramsValid (callStart s) = false := hp
  simp [exec, execDraw, this]

/-- DRAW with good parameters and a wrong length (R184). -/
theorem draw_badKey (s : State) (hp : paramsValid s = true) (hi : inputsValid s = false) :
    exec .draw s = .next (raise (.poolExhausted .invalidInputLength) (drawInit (callStart s))) := by
  have hp' : paramsValid (callStart s) = true := hp
  have hpp := (paramsValid_iff s).1 hp
  have hv : inputsValid (drawInit (callStart s)) = false := by simpa [inputsValid] using hi
  have hn := nextWord_invalid hv (by simp)
  have hd : drawStep (drawInit (callStart s)) = .raised (raise (.poolExhausted .invalidInputLength) (drawInit
      (callStart s))) := by
    have : ∀ f, sampleLoop (f + 1) (drawInit (callStart s)) = .raised (raise (.poolExhausted .invalidInputLength)
        (drawInit (callStart s))) := by
      intro f; simp only [sampleLoop, hn, Micro.bind]
    simp only [drawStep, sample]
    rw [drawFuel, this]; rfl
  have hr : (drawInit (callStart s)).rcnt.toNat < (drawInit (callStart s)).count.toNat := by simp; omega
  have : ∀ f, drawLoop (f + 1) (drawInit (callStart s)) = .raised (raise (.poolExhausted .invalidInputLength)
      (drawInit (callStart s))) := by
    intro f; simp only [drawLoop, hr, if_true, hd, Micro.bind]
  exact exec_draw_raised hp' (this _)

/-- DRAW with good parameters and lengths: the two ways it can end (R218, R220). -/
theorem draw_valid (s : State) (hi : inputsValid s = true) (hp : paramsValid s = true) :
    (∃ n s', n ≤ streamLength s.cfg ∧ exec .draw s = .next (callOk (forgetDrawScope s')) ∧ DrawAt n s' ∧
        LoopFrame (drawInit (callStart s)) s' ∧
      Collected (drawnAfter s.cfg s.keyb s.nonb s.modulus n) s' ∧
      (drawnAfter s.cfg s.keyb s.nonb s.modulus n).length = s.count.toNat ∧ 0 < n ∧
      (drawnAfter s.cfg s.keyb s.nonb s.modulus (n - 1)).length < s.count.toNat) ∨
    (∃ s', exec .draw s = .next (raise (.poolExhausted .suffixExhausted) s') ∧ DrawAt (streamLength s.cfg) s' ∧
        LoopFrame (drawInit (callStart s)) s' ∧
      (drawnAfter s.cfg s.keyb s.nonb s.modulus (streamLength s.cfg)).length < s.count.toNat) := by
  have hp' : paramsValid (callStart s) = true := hp
  have hpp := (paramsValid_iff s).1 hp
  rcases drawLoop_at (drawFuel (callStart s)) 0 (drawInit (callStart s)) (drawAt_init _ hi) (collected_init _ hp')
      (by simp [drawFuel, streamLength]) with ⟨n, s1, h1, h2, h3, h4, h5, h6, h7⟩ | ⟨s1, h2, h3, h4, h5⟩
  · left
    simp only [drawInit_cfg, drawInit_keyb, drawInit_nonb, drawInit_modulus, drawInit_count, callStart_cfg,
        callStart_keyb, callStart_nonb, callStart_modulus, callStart_count] at h5 h6 h7
    have hn : 0 < n := by
      rcases Nat.eq_zero_or_pos n with rfl | h
      · simp [drawnAfter, candidates, firstOccurrences] at h6; omega
      · exact h
    have h7 := h7 hn
    refine ⟨n, s1, ?_, exec_draw_done hp' h2, h3, h4, h5, ?_, hn, h7⟩
    · have := h3.bound; rw [h4.cfg] at this; exact this
    · obtain ⟨m, rfl⟩ : ∃ m, n = m + 1 := ⟨n - 1, by omega⟩
      have : (drawnAfter s.cfg s.keyb s.nonb s.modulus (m + 1)).length ≤
          (drawnAfter s.cfg s.keyb s.nonb s.modulus m).length + 1 := by
        simp only [drawnAfter, candidates]; split
        · rw [firstOccurrences_snoc]; split <;> simp
        · simp
      simp at h7; omega
  · right
    simp only [drawInit_cfg, drawInit_keyb, drawInit_nonb, drawInit_modulus, drawInit_count, callStart_cfg,
        callStart_keyb, callStart_nonb, callStart_modulus, callStart_count] at h3 h5
    exact ⟨s1, exec_draw_raised hp' h2, h3, h4, h5⟩

/-- SAMPLE, from any state, when it returns a value: what it leaves unchanged, and where the value comes from (R203). -/
theorem sampleLoop_frame {f : Nat} {s t : State} {v : Word} (h : sampleLoop f s = .done v t) :
    PoolFrame s t ∧ ∃ r, v = valueOf r s.modulus := by
  induction f generalizing s with
  | zero => simp [sampleLoop] at h
  | succ f ih =>
    simp only [sampleLoop] at h
    rcases hn : nextWord s with ⟨r, u⟩ | u | u <;> rw [hn] at h <;> simp only [Micro.bind] at h
    · have fr := nextWord_frame hn
      split at h
      · cases h; exact ⟨fr, r, by rw [fr.modulus]⟩
      · obtain ⟨g, r', hr⟩ := ih h; exact ⟨fr.trans g, r', by rw [hr, fr.modulus]⟩
    · cases h
    · cases h

/-- The four ways DRAW can end (R215, R218, R273). -/
theorem draw_outcomes (s : State) :
    (paramsValid s = false ∧ exec .draw s = .next (raise .invalidParameters (callStart s))) ∨
    (paramsValid s = true ∧ inputsValid s = false ∧
      exec .draw s = .next (raise (.poolExhausted .invalidInputLength) (drawInit (callStart s)))) ∨
    (paramsValid s = true ∧ inputsValid s = true ∧ ∃ n s', n ≤ streamLength s.cfg ∧
      exec .draw s = .next (callOk (forgetDrawScope s')) ∧ DrawAt n s' ∧ LoopFrame (drawInit (callStart s)) s' ∧
      Collected (drawnAfter s.cfg s.keyb s.nonb s.modulus n) s' ∧
      (drawnAfter s.cfg s.keyb s.nonb s.modulus n).length = s.count.toNat ∧ 0 < n ∧
      (drawnAfter s.cfg s.keyb s.nonb s.modulus (n - 1)).length < s.count.toNat) ∨
    (paramsValid s = true ∧ inputsValid s = true ∧ ∃ s',
      exec .draw s = .next (raise (.poolExhausted .suffixExhausted) s') ∧ DrawAt (streamLength s.cfg) s' ∧
      LoopFrame (drawInit (callStart s)) s' ∧
      (drawnAfter s.cfg s.keyb s.nonb s.modulus (streamLength s.cfg)).length < s.count.toNat) := by
  cases hp : paramsValid s
  · exact .inl ⟨rfl, draw_badParams s hp⟩
  cases hi : inputsValid s
  · exact .inr (.inl ⟨rfl, rfl, draw_badKey s hp hi⟩)
  · rcases draw_valid s hi hp with h | h
    · exact .inr (.inr (.inl ⟨rfl, rfl, h⟩))
    · exact .inr (.inr (.inr ⟨rfl, rfl, h⟩))

end Sys2Proof.Machine
end

