-- ==== Sys2Proof/Laws/Encoding.lean ====
section
/-! SUPPORT. The fields of a command word, taken apart and put together (R100, R101). -/

namespace Sys2Proof

/-- The opcode as R100 writes it. -/
theorem opField_toNat (w : CmdWord) : (opField w).toNat = w.toNat / 4294967296 := by
  have := w.isLt
  simp only [opField, BitVec.extractLsb'_toNat, Nat.shiftRight_eq_div_pow]; omega

/-- The immediate as R100 writes it. -/
theorem immField_toNat (w : CmdWord) : (immField w).toNat = w.toNat % 4294967296 := by
  simp [immField, BitVec.extractLsb'_toNat]

/-- The opcode of a packed word. -/
theorem pack_op (o : Byte) (m : Word) : opField (packFields o m) = o := by
  apply BitVec.eq_of_toNat_eq
  rw [opField_toNat]; simp only [packFields, BitVec.toNat_append, Nat.shiftLeft_eq]
  have := m.isLt
  rw [Nat.mul_comm, ← Nat.two_pow_add_eq_or_of_lt (by omega)]; omega

/-- The immediate of a packed word. -/
theorem pack_imm (o : Byte) (m : Word) : immField (packFields o m) = m := by
  apply BitVec.eq_of_toNat_eq
  rw [immField_toNat]; simp only [packFields, BitVec.toNat_append]
  have := m.isLt
  rw [Nat.shiftLeft_eq, Nat.mul_comm, ← Nat.two_pow_add_eq_or_of_lt (by omega)]
  omega

/-- A word is its two fields packed. -/
theorem pack_fields (w : CmdWord) : packFields (opField w) (immField w) = w := by
  apply BitVec.eq_of_toNat_eq
  simp only [packFields, BitVec.toNat_append, opField_toNat, immField_toNat]
  rw [Nat.shiftLeft_eq, Nat.mul_comm, ← Nat.two_pow_add_eq_or_of_lt (by omega)]
  omega

/-- A byte in a 32-bit immediate: the upper bits are zero, the low byte is the byte. -/
theorem byte_zext (b : Byte) : immUpper (b.zeroExtend 32) = 0#24 ∧ immByte (b.zeroExtend 32) = b := by
  have := b.isLt
  constructor <;> apply BitVec.eq_of_toNat_eq <;> simp [immUpper, immByte, BitVec.extractLsb'_toNat,
      Nat.shiftRight_eq_div_pow] <;> omega

/-- An immediate whose upper bits are zero is its low byte. -/
theorem zext_byte (m : Word) (h : immUpper m = 0#24) : (immByte m).zeroExtend 32 = m := by
  have h := congrArg BitVec.toNat h
  have := m.isLt
  apply BitVec.eq_of_toNat_eq
  simp [immUpper, immByte, BitVec.extractLsb'_toNat, Nat.shiftRight_eq_div_pow] at *
  omega

end Sys2Proof
end

