-- ==== Sys2Proof/Laws/PerInstr.lean ====
section
/-! SUPPORT. Statements for all instructions, one lemma per constructor of `Instr`: every command's encoding is a well-formed
command word (R101, R103). -/

namespace Sys2Proof.Laws.EncodeWellFormed

/-- The word of a command passes the three checks of R104. -/
def Statement (i : Instr) : Prop := WellFormed (encode i) = true

/-- The opcode of a packed word as R100 writes it. -/
theorem opNumber_pack (op : Byte) (imm : Word) : opNumber (packFields op imm) = op.toNat := by
  rw [opNumber, ← opField_toNat, pack_op]

/-- The immediate of a packed word as R100 writes it. -/
theorem immNumber_pack (op : Byte) (imm : Word) : immNumber (packFields op imm) = imm.toNat := by
  rw [immNumber, ← immField_toNat, pack_imm]

theorem nop : Statement .nop := by unfold Statement; decide
theorem kclr : Statement .kclr := by unfold Statement; decide
theorem kpush (b : Byte) : Statement (.kpush b) := by
  have := b.isLt
  simp [Statement, WellFormed, encode, opcodeAssigned, noneImmZero, byteImmZero, opNumber_pack, immNumber_pack, opcodeOf,
    immediateOf, immClass?]
  omega
theorem nclr : Statement .nclr := by unfold Statement; decide
theorem npush (b : Byte) : Statement (.npush b) := by
  have := b.isLt
  simp [Statement, WellFormed, encode, opcodeAssigned, noneImmZero, byteImmZero, opNumber_pack, immNumber_pack, opcodeOf,
    immediateOf, immClass?]
  omega
theorem lenlo (v : Word) : Statement (.lenlo v) := by
  simp [Statement, WellFormed, encode, opcodeAssigned, noneImmZero, byteImmZero, opNumber_pack, opcodeOf, immClass?]
theorem lenhi (v : Word) : Statement (.lenhi v) := by
  simp [Statement, WellFormed, encode, opcodeAssigned, noneImmZero, byteImmZero, opNumber_pack, opcodeOf, immClass?]
theorem setcnt (v : Word) : Statement (.setcnt v) := by
  simp [Statement, WellFormed, encode, opcodeAssigned, noneImmZero, byteImmZero, opNumber_pack, opcodeOf, immClass?]
theorem setmod (v : Word) : Statement (.setmod v) := by
  simp [Statement, WellFormed, encode, opcodeAssigned, noneImmZero, byteImmZero, opNumber_pack, opcodeOf, immClass?]
theorem genbits : Statement .genbits := by unfold Statement; decide
theorem genwords : Statement .genwords := by unfold Statement; decide
theorem draw : Statement .draw := by unfold Statement; decide
theorem srst : Statement .srst := by unfold Statement; decide

end Sys2Proof.Laws.EncodeWellFormed
end

