-- ==== Sys2Proof/Laws/Setup.lean ====
section
/-! SUPPORT. The three cases of KPUSH and NPUSH (R242, R244), each as an equation. -/

namespace Sys2Proof.Machine

/-- KPUSH with fewer than 32 bytes pushed. -/
theorem pushKeyByte_store {s : State} (b : Byte) (h : s.klen.toNat < 32) :
    pushKeyByte b s = { s with keyb := s.keyb.set s.klen.toNat b h, klen := s.klen + 1#6 } := by simp [pushKeyByte, h]

/-- KPUSH of the 33rd byte. -/
theorem pushKeyByte_drop {s : State} (b : Byte) (h : s.klen = 32#6) : pushKeyByte b s = { s with klen := 33#6 } := by
  simp [pushKeyByte, h]

/-- KPUSH past the 33rd byte. -/
theorem pushKeyByte_full {s : State} (b : Byte) (h : 32 < s.klen.toNat) : pushKeyByte b s = s := by
  have : s.klen ≠ 32#6 := by rintro e; simp [e] at h
  simp [pushKeyByte, show ¬ s.klen.toNat < 32 by omega, this]

/-- NPUSH with fewer than 12 bytes pushed. -/
theorem pushNonceByte_store {s : State} (b : Byte) (h : s.nlen.toNat < 12) :
    pushNonceByte b s = { s with nonb := s.nonb.set s.nlen.toNat b h, nlen := s.nlen + 1#4 } := by simp [pushNonceByte, h]

/-- NPUSH of the 13th byte. -/
theorem pushNonceByte_drop {s : State} (b : Byte) (h : s.nlen = 12#4) : pushNonceByte b s = { s with nlen := 13#4 } := by
  simp [pushNonceByte, h]

/-- NPUSH past the 13th byte. -/
theorem pushNonceByte_full {s : State} (b : Byte) (h : 12 < s.nlen.toNat) : pushNonceByte b s = s := by
  have : s.nlen ≠ 12#4 := by rintro e; simp [e] at h
  simp [pushNonceByte, show ¬ s.nlen.toNat < 12 by omega, this]

end Sys2Proof.Machine
end

