-- ==== Sys2Proof/Laws/Step.lean ====
section
/-! SUPPORT. What one step can do: the next input of the host decides (R92, R261, R310, R312). -/

namespace Sys2Proof.Machine

/-- With nothing offered a step changes nothing (R312). -/
theorem step_idle {s : State} (h : s.host = []) : step s = .next s := by simp [step, fetchInput, h]

/-- A word offered while BUSY = 1 is held (R92). -/
theorem step_held {s : State} {w : CmdWord} {rest : List HostInput} (h : s.host = .command w :: rest) (hb : s.busy = true) :
    step s = .next s := by simp [step, fetchInput, h, hb]

/-- Hardware reset (R310). -/
theorem step_hardReset {s : State} {rest : List HostInput} (h : s.host = .hardReset :: rest) :
    step s = .next (resetCore { s with host := rest }) := by simp [step, fetchInput, h]

/-- An illegal command word that transfers (R104). -/
theorem step_illegal {s : State} {w : CmdWord} {rest : List HostInput} {e : DecodeError} (h : s.host = .command w :: rest)
    (hb : s.busy = false) (hd : decode w = .error e) : step s = .next (illegalCommand (accept rest s)) := by
  simp [step, fetchInput, h, hb, hd]

/-- A legal command word that transfers (R261). -/
theorem step_command {s : State} {w : CmdWord} {rest : List HostInput} {i : Instr} (h : s.host = .command w :: rest)
    (hb : s.busy = false) (hd : decode w = .ok i) : step s = exec i (accept rest s) := by
  simp [step, fetchInput, h, hb, hd]

/-- Everything a step can do. -/
theorem step_cases (s : State) :
    (s.host = [] ∧ step s = .next s) ∨
    (∃ rest, s.host = .hardReset :: rest ∧ step s = .next (resetCore { s with host := rest })) ∨
    (∃ w rest, s.host = .command w :: rest ∧ s.busy = true ∧ step s = .next s) ∨
    (∃ w rest e, s.host = .command w :: rest ∧ s.busy = false ∧ decode w = .error e ∧
      step s = .next (illegalCommand (accept rest s))) ∨
    (∃ w rest i, s.host = .command w :: rest ∧ s.busy = false ∧ decode w = .ok i ∧ step s = exec i (accept rest s)) := by
  rcases h : s.host with _ | ⟨w | _, rest⟩
  · exact .inl ⟨rfl, step_idle h⟩
  · rcases hb : s.busy with _ | _
    · rcases hd : decode w with e | i
      · exact .inr (.inr (.inr (.inl ⟨w, rest, e, rfl, rfl, hd, step_illegal h hb hd⟩)))
      · exact .inr (.inr (.inr (.inr ⟨w, rest, i, rfl, rfl, hd, step_command h hb hd⟩)))
    · exact .inr (.inr (.inl ⟨w, rest, rfl, rfl, step_held h hb⟩))
  · exact .inr (.inl ⟨rest, rfl, step_hardReset h⟩)

end Sys2Proof.Machine
end

