-- ==== Sys2Proof/Tests/Slice0.lean ====
section
/-! SUPPORT. Tests of single operations and steps, their expected values from spec/ (95_test_vectors.md, R110 and R142 unless
said), and one witness theorem or more for every statement that has hypotheses. -/

namespace Sys2Proof.Machine.Tests

/-! ### Helpers -/

/-- A configuration with a small pool. -/
def smallPool (order : SuffixOrder) : Config :=
  { Config.standard with poolCap := 4, suffixOrder := order, poolCap_pos := by decide, poolCap_le := by decide }

/-- The default configuration with MASK_KEEP = high. -/
def keepHigh : Config := { Config.standard with maskKeep := .high }

/-- `keepHigh` with the largest SEEN_CAP. -/
def keepHighWide : Config := { keepHigh with seenCap := 32768, seenCap_pos := by decide, seenCap_le := by decide }

/-- Reset, then Z32 and Z12 loaded: 32 and 12 zero bytes. -/
def ready : State := { State.reset with klen := 32#6, nlen := 12#4 }

/-- `ready` with POOL_CAP = 4. -/
def readySmall (order : SuffixOrder) : State := { ready with cfg := smallPool order }

/-- `ready` with a COUNT and a MODULUS, and POOL_CAP = 4. -/
def drawing (c m : Word) (order : SuffixOrder) : State := { readySmall order with count := c, modulus := m }

/-- What a function of the state gives after a command. -/
def after {β : Type} (i : Instr) (s : State) (f : State → β) : Option β :=
  match exec i s with
  | .next t => some (f t)
  | .fault _ => none
  | .refused _ => none

/-- What a function of the state gives after a step. -/
def afterStep {β : Type} (s : State) (f : State → β) : Option β :=
  match step s with
  | .next t => some (f t)
  | .fault _ => none
  | .refused _ => none

/-- The first `n` entries of RES, as numbers. -/
def results (n : Nat) (t : State) : List (Option Nat) := (List.range n).map fun i => (Memory.read t.res i).map BitVec.toNat

/-- A command word offered to the machine after reset. -/
def offered (w : CmdWord) : State := offerWord w State.reset

theorem next_of_after {i : Instr} {s : State} {p : State → Bool} (h : after i s p = some true) :
    ∃ t, exec i s = .next t ∧ p t = true := by
  unfold after at h
  split at h
  · rename_i t e; exact ⟨t, e, by simpa using h⟩
  · cases h
  · cases h

/-! ### Well-formed words: one ill-formed word for each check (V-ILL) -/

theorem test_wf_unassigned_opcode : opcodeAssigned 0x0900000000#40 = false ∧ WellFormed 0x0900000000#40 = false := by decide
theorem test_wf_none_class_immediate : noneImmZero 0x1200000001#40 = false ∧ WellFormed 0x1200000001#40 = false := by decide
theorem test_wf_byte_class_immediate : byteImmZero 0x0480000000#40 = false ∧ WellFormed 0x0480000000#40 = false := by decide
theorem test_wf_legal_neighbours : WellFormed 0x02000000FF#40 = true ∧ WellFormed 0x04000000FF#40 = true ∧
    WellFormed 0x05FFFFFFFF#40 = true ∧ WellFormed 0x08FFFFFFFF#40 = true := by decide

/-! ### Decoding (V-ENC, V-ILL): every command from the word the spec prints -/

theorem test_decode_nop : decode 0x0000000000#40 = .ok .nop := by decide
theorem test_decode_kclr : decode 0x0100000000#40 = .ok .kclr := by decide
theorem test_decode_kpush : decode 0x020000009F#40 = .ok (.kpush 0x9F#8) ∧ decode 0x02000000FF#40 = .ok (.kpush 255#8) := by
  decide
theorem test_decode_nclr : decode 0x0300000000#40 = .ok .nclr := by decide
theorem test_decode_npush : decode 0x040000004A#40 = .ok (.npush 0x4A#8) := by decide
theorem test_decode_lenlo : decode 0x0500000200#40 = .ok (.lenlo 512#32) ∧
    decode 0x05FFFFFFFF#40 = .ok (.lenlo 0xFFFFFFFF#32) := by decide
theorem test_decode_lenhi : decode 0x06000001FF#40 = .ok (.lenhi 0x1FF#32) := by decide
theorem test_decode_setcnt : decode 0x0700000140#40 = .ok (.setcnt 320#32) := by decide
theorem test_decode_setmod : decode 0x08000003E8#40 = .ok (.setmod 1000#32) := by decide
theorem test_decode_genbits : decode 0x1000000000#40 = .ok .genbits := by decide
theorem test_decode_genwords : decode 0x1100000000#40 = .ok .genwords := by decide
theorem test_decode_draw : decode 0x1200000000#40 = .ok .draw := by decide
theorem test_decode_srst : decode 0x1F00000000#40 = .ok .srst := by decide

theorem test_decode_unassigned :
    [0x0900000000#40, 0x0F00000000#40, 0x1300000000#40, 0x1E00000000#40, 0x2000000000#40, 0xFF00000000#40,
      0xFFFFFFFFFF#40].any (fun w => (decode w).isOk) = false := by decide

theorem test_decode_immediate_not_zero :
    [0x0000000001#40, 0x0100000001#40, 0x0300008000#40, 0x1000000200#40, 0x1100000001#40, 0x1200000001#40, 0x1F00000001#40,
      0x1FFFFFFFFF#40, 0x0200000100#40, 0x02FFFFFF00#40, 0x0400000100#40, 0x0480000000#40].any (fun w => (decode w).isOk)
      = false := by decide

theorem test_table_word : decodeTableWord 40 0x020000009F = some (.kpush 0x9F#8) ∧ decodeTableWord 40 0x0900000000 = none := by
  decide

/-! ### The assembler (R107, V-PSEUDO) -/

theorem test_assemble_ksbits : assemble [['K', 'S', 'B', 'I', 'T', 'S', ' ', '5', '1', '2', ' ', '#', 'x']] =
    .ok [0x0500000200#40, 0x0600000000#40, 0x1000000000#40] := by decide +kernel

theorem test_assemble_drawu : assemble [['D', 'R', 'A', 'W', 'U', ' ', '5', ',', ' ', '8'], []] =
    .ok [0x0700000005#40, 0x0800000008#40, 0x1200000000#40] := by decide +kernel

theorem test_assemble_rejects : assemble [['K', 'P', 'U', 'S', 'H', ' ', '0', 'x', '1', '0', '0']] = .error .operandTooLarge := by
  decide +kernel

/-! ### Block Transform (V-ADD, V-ROT, V-QR, V-BLK-K1) -/

theorem test_rotl32 : rotl32 0x12345678#32 7 = 0x1a2b3c09#32 ∧ rotl32 0x80000001#32 12 = 0x00001800#32 := by decide

theorem test_quarter_round : quarterWords 0x11111111#32 0x01020304#32 0x9b8d6f43#32 0x01234567#32 =
    (0xea2a92f4#32, 0xcb1cf8ce#32, 0x4581472e#32, 0x5881c4bb#32) := by decide

theorem test_block_k1 : blockTransform
    #v[0x61707865#32, 0x3320646e#32, 0x79622d32#32, 0x6b206574#32, 0x03020100#32, 0x07060504#32, 0x0b0a0908#32, 0x0f0e0d0c#32,
       0x13121110#32, 0x17161514#32, 0x1b1a1918#32, 0x1f1e1d1c#32, 0x00000001#32, 0x09000000#32, 0x4a000000#32, 0x00000000#32] =
    #v[0xe4e7f110#32, 0x15593bd1#32, 0x1fdd0f50#32, 0xc47120a3#32, 0xc7f4d1c7#32, 0x0368c033#32, 0x9aaa2204#32, 0x4e6cd4c3#32,
       0x466482d2#32, 0x09aa9f07#32, 0x05d7c214#32, 0xa2028bd9#32, 0xd19c12b5#32, 0xb94e16de#32, 0xe883d0cb#32,
       0x4e3c50a2#32] := by decide +kernel

/-! ### One or two single-command tests for each command -/

theorem test_nop : after .nop { ready with errCode := 5#3, esticky := true } (fun t => (t.errWord, t.statusWord)) =
    some (5#32, 0x3C#32) := by decide +kernel

theorem test_kclr : after .kclr { ready with keyb := Vector.replicate 32 0xAB#8, klen := 33#6 }
    (fun t => (t.keyb, t.klen)) = some (Vector.replicate 32 0#8, 0#6) := by decide +kernel

theorem test_kpush_first_and_last : after (.kpush 0xAB#8) State.reset (fun t => (t.keyb[0], t.klen, t.kvalid)) =
      some (0xAB#8, 1#6, false) ∧
    after (.kpush 1#8) { ready with klen := 31#6 } (fun t => (t.keyb[31], t.klen, t.kvalid)) = some (1#8, 32#6, true) := by
  decide +kernel

theorem test_kpush_saturates : after (.kpush 0xAA#8) ready (fun t => (t.keyb, t.klen, t.kvalid)) =
      some (Vector.replicate 32 0#8, 33#6, false) ∧
    after (.kpush 0xBB#8) { ready with klen := 33#6 } (fun t => (t.keyb, t.klen)) =
      some (Vector.replicate 32 0#8, 33#6) := by decide +kernel

theorem test_nclr : after .nclr { ready with nonb := Vector.replicate 12 0xAB#8 } (fun t => (t.nonb, t.nlen)) =
    some (Vector.replicate 12 0#8, 0#4) := by decide +kernel

theorem test_npush_first_and_last : after (.npush 0xAB#8) State.reset (fun t => (t.nonb[0], t.nlen)) = some (0xAB#8, 1#4) ∧
    after (.npush 1#8) { ready with nlen := 11#4 } (fun t => (t.nonb[11], t.nlen, t.nvalid)) = some (1#8, 12#4, true) := by
  decide +kernel

theorem test_npush_saturates : after (.npush 0xAA#8) ready (fun t => (t.nonb, t.nlen)) =
      some (Vector.replicate 12 0#8, 13#4) ∧
    after (.npush 0xBB#8) { ready with nlen := 13#4 } (fun t => (t.nonb, t.nlen)) =
      some (Vector.replicate 12 0#8, 13#4) := by decide +kernel

theorem test_lenlo : after (.lenlo 0#32) { ready with len := 0x1FFFFFFFE01#64 } (fun t => t.len) = some 0x1FF00000000#64 := by
  decide +kernel

theorem test_lenhi : after (.lenhi 1#32) State.reset (fun t => t.len) = some 4294967296#64 ∧
    after (.lenhi 0x1FF#32) { ready with len := 0xFFFFFE01#64 } (fun t => t.len) = some 2199023255041#64 := by decide +kernel

theorem test_setcnt : after (.setcnt 0#32) ready (fun t => (t.count, t.modulus)) = some (0#32, 1000#32) := by decide +kernel

theorem test_setmod : after (.setmod 8#32) ready (fun t => (t.count, t.modulus, t.limit)) =
    some (320#32, 8#32, 0xFFFFFED8#32) := by decide +kernel

/-- V-MASK: LEN = 513, the last two bytes for both values of MASK_KEEP, and CTR. -/
theorem test_genbits_mask : after .genbits { ready with len := 513#64 } (fun t => (t.out.drop 63, t.outLen, t.ctr)) =
      some ([0x6f#8, 0x01#8], 65#64, 3#32) ∧
    after .genbits { ready with len := 15#64, cfg := keepHigh } (fun t => (t.out, t.ctr)) = some ([0x9f#8, 0x06#8], 2#32) := by
  decide +kernel

/-- P4, line 4: one bit too many. -/
theorem test_genbits_exhausted : after .genbits { ready with len := 2199023255041#64 }
    (fun t => (t.statusWord, t.errWord, t.outLen, t.ctr)) = some (0x3C#32, 1#32, 0#64, 1#32) := by decide +kernel

/-- V-WORDS: LEN = 17 gives the first block and the first word of the second. -/
theorem test_genwords : after .genwords { ready with len := 17#64 }
    (fun t => (wordsOfBytes t.out).drop 15) = some [0x6f4d794b#32, 0xe6a0092d#32] := by decide +kernel

/-- P3, line 4: 31 key bytes. -/
theorem test_genwords_bad_key : after .genwords { ready with klen := 31#6, len := 2#64, esticky := true }
    (fun t => (t.statusWord, t.errWord, t.outLen, t.ctr)) = some (0x2C#32, 2#32, 0#64, 1#32) := by decide +kernel

/-- V-DRAW-CAP, row 1: POOL_CAP = 4, little, (5, 8). -/
theorem test_draw_little : after .draw (drawing 5#32 8#32 .little)
    (fun t => (results 6 t, t.rcnt, t.idx, t.suffix, t.ctr, t.limit)) =
    some ([some 7, some 5, some 0, some 3, some 2, none], 5#32, 1#32, 2#32, 2#32, 0xFFFFFFF8#32) := by decide +kernel

/-- V-DRAW-CAP, row 2: POOL_CAP = 4, big, (5, 8): four duplicates. -/
theorem test_draw_big : after .draw (drawing 5#32 8#32 .big) (fun t => (results 5 t, t.idx, t.suffix, t.statusWord)) =
    some ([some 7, some 5, some 0, some 3, some 2], 1#32, 3#32, 0x32#32) := by decide +kernel

theorem test_srst : after .srst { ready with count := 5#32, esticky := true, out := [1#8], outLen := 1#64, done := true }
    (fun t => (List.range 16).map fun a => (csrAt t a).map BitVec.toNat) =
    some ([0, 0, 0, 0, 0, 0, 320, 1000, 0, 0, 0, 1, 0, 0, 0, 4294967000].map some) := by decide +kernel

/-! ### Steps -/

/-- The first instruction after reset runs: P3, line 1. -/
theorem test_step_draw_after_reset : afterStep (State.reset.withFetchWord 40 0x1200000000)
    (fun t => (t.statusWord, t.errWord, t.rcnt)) = some (0x0C#32, 0x23#32, 0#32) := by decide +kernel

/-- P3, line 8: an illegal word. -/
theorem test_step_illegal : afterStep (offerWord 0x1200000001#40 { ready with esticky := true })
    (fun t => (t.statusWord, t.errWord, t.host)) = some (0x3C#32, 5#32, []) := by decide +kernel

/-- R310: hardware reset does not wait for BUSY = 0. -/
theorem test_step_hard_reset : afterStep { ready with host := [.hardReset], busy := true } (fun t => (t.klen, t.busy)) =
    some (0#6, false) := by decide +kernel

/-! ### Pool and Sampler (V-WN, V-POOL4, V-LIM, V-ACC) -/

theorem test_working_nonce : nonceWord (workingNonce .little (Vector.replicate 12 0xFF#8) 1#32) 2 = 0xFFFFFFFE#32 ∧
    (workingNonce .big (Vector.replicate 12 0#8) 0x01020304#32).toList.drop 8 = [1#8, 2#8, 3#8, 4#8] := by decide

theorem test_refill_second_pool :
    streamWord (smallPool .little) ready.keyb ready.nonb 4 = 0x21a0e642#32 ∧
    streamWord (smallPool .big) ready.keyb ready.nonb 7 = 0x914cff25#32 := by decide +kernel

theorem test_limit : limitOf 1000#32 = 0xFFFFFED8#32 ∧ limitOf 7#32 = 0xFFFFFFFC#32 ∧ limitOf 1#32 = 0xFFFFFFFF#32 := by decide

theorem test_accept : acceptWord 0xFFFFFED8#32 (limitOf 1000#32) = true ∧ acceptWord 0xFFFFFED9#32 (limitOf 1000#32) = false ∧
    valueOf 0xbee7079f#32 1000#32 = 807#32 := by decide

/-- The last error of R273: a word asked for after all suffixes were used (V-POOLERR). -/
theorem test_suffix_exhausted :
    (match nextWord { ready with swrap := true } with
      | .raised t => some (t.errWord, t.rcnt)
      | .done _ _ => none
      | .stuck _ => none) = some (0x63#32, 0#32) := by decide +kernel

/-! ### Ports (V-RD) -/

/-- A state with two results. -/
def twoResults : State :=
  { ready with res := Memory.fromList 0 [776#32, 553#32], rcnt := 2#32, done := true }

theorem test_rd_window : twoResults.rdTransfer 0x8001#16 = some ⟨true, 553#32⟩ ∧
    twoResults.rdTransfer 0x8002#16 = some ⟨false, 0#32⟩ ∧ twoResults.rdTransfer 0x0010#16 = some ⟨false, 0#32⟩ ∧
    twoResults.rdTransfer 0x0008#16 = some ⟨true, 2#32⟩ := by decide

/-! ### Witnesses: the hypotheses of each statement can be met, at the ends of their ranges -/

theorem test_witness_EncodeOfDecode : ∃ w i, decode w = .ok i ∧ i = .kpush 255#8 := ⟨0x02000000FF#40, _, by decide, rfl⟩

theorem test_witness_OpcodeMapSelects : ∃ row ∈ opcodeRows, ∃ w : CmdWord, w &&& row.maskBits = row.matchBits ∧
    w = 0x04000000FF#40 := ⟨_, by simp [opcodeRows]; exact .inr (.inr (.inr (.inr (.inl rfl)))), 0x04000000FF#40, by decide, rfl⟩

/-- One word of each of the five groups of R104, at the ends of the groups, and two words in none of them. -/
theorem test_witness_IllegalCommandEffect :
    (∀ p ∈ [(0x09, 0), (0x0F, 0), (0x13, 0), (0x1E, 0), (0x20, 0), (0xFF, 0), (0x1F, 1), (0x00, 4294967295), (0x02, 256),
      (0x04, 4294967295)], illegalFields p.1 p.2) ∧ ¬ illegalFields 0x08 4294967295 ∧ ¬ illegalFields 0x04 255 :=
  ⟨by unfold illegalFields; decide, by unfold illegalFields; decide, by unfold illegalFields; decide⟩

theorem test_witness_StepRunsDecodedCommand : ∃ (s : State) (w : CmdWord) (rest : List HostInput) (i : Instr),
    s.host = .command w :: rest ∧ s.busy = false ∧ decode w = .ok i :=
  ⟨offered 0x1200000000#40, _, [], .draw, rfl, rfl, by decide⟩

theorem test_witness_OtherInputsSettle : (∃ s : State, s.host = []) ∧
    (∃ (s : State) (w : CmdWord) (rest : List HostInput), s.host = .command w :: rest ∧ s.busy = true) ∧
    (∃ (s : State) (w : CmdWord) (rest : List HostInput) (e : DecodeError),
      s.host = .command w :: rest ∧ s.busy = false ∧ decode w = .error e) ∧
    ∃ (s : State) (rest : List HostInput), s.host = .hardReset :: rest :=
  ⟨⟨State.reset, rfl⟩, ⟨{ offered 0#40 with busy := true }, _, [], rfl, rfl⟩,
    ⟨offered 0x0900000000#40, _, [], .unassignedOpcode 0x09#8, rfl, rfl, by decide⟩,
    ⟨{ ready with host := [.hardReset] }, [], rfl⟩⟩

theorem test_witness_KpushStoresOrSaturates : (∃ s : State, s.klen.toNat < 32 ∧ s.klen = 31#6) ∧
    (∃ s : State, s.klen.toNat = 32) ∧ ∃ s : State, 32 < s.klen.toNat :=
  ⟨⟨{ ready with klen := 31#6 }, by decide, rfl⟩, ⟨ready, by decide⟩, ⟨{ ready with klen := 33#6 }, by decide⟩⟩

theorem test_witness_NpushStoresOrSaturates : (∃ s : State, s.nlen.toNat < 12 ∧ s.nlen = 11#4) ∧
    (∃ s : State, s.nlen.toNat = 12) ∧ ∃ s : State, 12 < s.nlen.toNat :=
  ⟨⟨{ ready with nlen := 11#4 }, by decide, rfl⟩, ⟨ready, by decide⟩, ⟨{ ready with nlen := 13#4 }, by decide⟩⟩

theorem test_witness_ResetAsTheHostReadsIt : (∃ t c, t = State.resetWith c) ∧ (∃ s t, exec .srst s = .next t) ∧
    ∃ a : RdAddr, 16 ≤ a.toNat ∧ a = 16#16 := ⟨⟨_, keepHigh, rfl⟩, ⟨ready, _, rfl⟩, ⟨16#16, by decide, rfl⟩⟩

theorem test_witness_RotateMovesBits : ∃ n i : Nat, 1 ≤ n ∧ n ≤ 31 ∧ i < 32 ∧ n = 31 ∧ i = 31 := ⟨31, 31, by decide⟩

theorem test_witness_QuarterRoundTouchesFourWords : ∃ a b c d e : Fin 16, [a, b, c, d].Nodup ∧ e ∉ [a, b, c, d] :=
  ⟨0, 5, 10, 15, 1, by decide, by decide⟩

theorem test_witness_RoundLanesCommute : ∃ gs, gs.Perm columnGroups ∧ gs ≠ columnGroups :=
  ⟨columnGroups.reverse, List.reverse_perm _, by decide⟩

theorem test_witness_InitStateLayout : ∃ i j : Nat, i < 8 ∧ j < 3 ∧ i = 7 ∧ j = 2 := ⟨7, 2, by decide⟩

theorem test_witness_KeystreamClosedForm : ∃ nbytes m : Nat, nbytes ≤ maxKsBytes ∧ nbytes = 4 * m ∧ nbytes = 274877906880 :=
  ⟨_, 68719476720, by decide, by decide, rfl⟩

/-- The last block of the longest legal request. -/
theorem test_witness_NoBlockWithCounterZero : ∃ nbytes k : Nat, nbytes ≤ maxKsBytes ∧ k < blocksFor nbytes ∧ k = 4294967294 :=
  ⟨274877906880, _, by decide, by decide, rfl⟩

/-- The longest legal request and the empty one. -/
theorem test_witness_GenbitsDeliversKeystream :
    (∃ s : State, s.klen = 32#6 ∧ s.nlen = 12#4 ∧ ceil8 s.len.toNat ≤ maxKsBytes ∧ s.len = 2199023255040#64) ∧
    ∃ s : State, s.klen = 32#6 ∧ s.nlen = 12#4 ∧ ceil8 s.len.toNat ≤ maxKsBytes ∧ s.len = 0#64 :=
  ⟨⟨{ ready with len := 2199023255040#64 }, by decide⟩, ⟨ready, by decide⟩⟩

theorem test_witness_FinalByteIsMasked : ∃ s t, exec .genbits s = .next t ∧ t.done = true ∧ s.len.toNat % 8 ≠ 0 := by
  obtain ⟨t, h, hd⟩ := next_of_after (i := .genbits) (s := { ready with len := 12#64 }) (p := fun t => t.done) (by decide +kernel)
  exact ⟨_, t, h, hd, by decide⟩

theorem test_witness_GenwordsDeliversWords : ∃ s : State, s.klen = 32#6 ∧ s.nlen = 12#4 ∧ s.len.toNat ≤ 68719476720 ∧
    s.len = 68719476720#64 := ⟨{ ready with len := 68719476720#64 }, by decide⟩

theorem test_witness_GenwordsEqualsGenbits : ∃ (s : State) (w : Nat), s.klen = 32#6 ∧ s.nlen = 12#4 ∧ w ≤ 68719476720 ∧ w = 17 :=
  ⟨ready, 17, by decide⟩

theorem test_witness_ShorterRequestIsInitialPart : ∃ (s : State) (w1 w2 : Nat), s.klen = 32#6 ∧ s.nlen = 12#4 ∧ w1 ≤ w2 ∧
    w2 ≤ 68719476720 ∧ w1 ≠ w2 := ⟨ready, 3, 68719476720, by decide⟩

/-- Two states that differ in COUNT, CTR and the free counter. -/
theorem test_witness_GenbitsOutputDeterminedByInputs : ∃ s1 s2 : State, s1.keyb = s2.keyb ∧ s1.klen = s2.klen ∧
    s1.nonb = s2.nonb ∧ s1.nlen = s2.nlen ∧ s1.len = s2.len ∧ s1.cfg.maskKeep = s2.cfg.maskKeep ∧ s1.ctr ≠ s2.ctr :=
  ⟨ready, { ready with count := 5#32, ctr := 9#32, freeNext := 7 }, by decide⟩

theorem test_witness_KeystreamCallErrors : (∃ s : State, ¬ (s.klen = 32#6 ∧ s.nlen = 12#4) ∧ s.klen = 31#6) ∧
    (∃ s : State, ¬ (s.klen = 32#6 ∧ s.nlen = 12#4) ∧ s.nlen = 13#4) ∧
    (∃ s : State, (s.klen = 32#6 ∧ s.nlen = 12#4) ∧ 274877906880 < ceil8 s.len.toNat ∧ s.len = 2199023255041#64) ∧
    ∃ s : State, (s.klen = 32#6 ∧ s.nlen = 12#4) ∧ 68719476720 < s.len.toNat ∧ s.len = 68719476721#64 :=
  ⟨⟨{ ready with klen := 31#6 }, by decide⟩, ⟨{ ready with nlen := 13#4 }, by decide⟩,
    ⟨{ ready with len := 2199023255041#64 }, by decide⟩, ⟨{ ready with len := 68719476721#64 }, by decide⟩⟩

theorem test_witness_WorkingNoncesDistinct : ∃ (o : SuffixOrder) (n : Nonce) (s1 s2 : Word),
    workingNonce o n s1 = workingNonce o n s2 := ⟨.big, ready.nonb, 3#32, 3#32, rfl⟩

theorem test_witness_RefillFillsPool : (∃ s : State, s.klen = 32#6 ∧ s.nlen = 12#4 ∧ s.swrap = false ∧ s.suffix = 0#32) ∧
    ∃ s : State, s.klen = 32#6 ∧ s.nlen = 12#4 ∧ s.swrap = false ∧ s.suffix = 0xFFFFFFFF#32 :=
  ⟨⟨ready, by decide⟩, ⟨{ ready with suffix := 0xFFFFFFFF#32 }, by decide⟩⟩

theorem test_witness_RefillErrors : (∃ s : State, ¬ (s.klen = 32#6 ∧ s.nlen = 12#4)) ∧
    ∃ s : State, (s.klen = 32#6 ∧ s.nlen = 12#4) ∧ s.swrap = true :=
  ⟨⟨State.reset, by decide⟩, ⟨{ ready with swrap := true }, by decide⟩⟩

/-- The whole stream, and its second pool. -/
theorem test_witness_PoolDeliversTheStream : (∃ (s : State) (n : Nat), s.klen = 32#6 ∧ s.nlen = 12#4 ∧ n ≤ streamLength s.cfg ∧
      n = 8796093022208) ∧
    ∃ (s : State) (n : Nat), s.klen = 32#6 ∧ s.nlen = 12#4 ∧ n ≤ streamLength s.cfg ∧ n ≠ 0 ∧ n = s.cfg.poolCap + 1 :=
  ⟨⟨ready, 8796093022208, by decide⟩, ⟨readySmall .big, 5, by decide⟩⟩

theorem test_witness_LimitIsLargestMultiple : ∃ m : Word, m ≠ 0#32 ∧ m = 1000#32 := ⟨_, by decide, rfl⟩

theorem test_witness_AcceptedPreimageCounts : ∃ (m : Word) (v : Nat), m ≠ 0#32 ∧ v < m.toNat ∧ v = 0 := ⟨1#32, 0, by decide⟩

/-- A pool with one word, MODULUS 1000 and the given LIMIT. -/
def oneWord (limit : Word) : State :=
  { ready with pool := [(0, 0xFFFFFED9#32)], idx := 0#32, haveReg := 1#32, limit := limit }

/-- A word above LIMIT (rejected), a word equal to it (accepted), and a sample that returns. -/
theorem test_witness_SampleRejectsAboveLimit :
    (∃ s t r, nextWord s = .done r t ∧ ¬ r.toNat ≤ t.limit.toNat) ∧ (∃ s t r, nextWord s = .done r t ∧ r = t.limit) ∧
    ∃ s t v, s.modulus ≠ 0#32 ∧ sample s = .done v t :=
  ⟨⟨oneWord 0xFFFFFED8#32, _, _, rfl, by decide⟩, ⟨oneWord 0xFFFFFED9#32, _, _, rfl, by decide⟩,
    ⟨oneWord 0xFFFFFED9#32, _, _, by decide, rfl⟩⟩

theorem test_witness_DrawParameterErrors : (∃ s : State, s.count.toNat = 0) ∧
    (∃ s : State, s.modulus.toNat < s.count.toNat ∧ s.count = 1001#32) ∧
    ∃ s : State, s.cfg.seenCap < s.modulus.toNat ∧ s.modulus = 1001#32 :=
  ⟨⟨{ ready with count := 0#32 }, by decide⟩, ⟨{ ready with count := 1001#32 }, by decide⟩,
    ⟨{ ready with modulus := 1001#32 }, by decide⟩⟩

theorem test_witness_DrawWithoutKeyFails : ∃ s : State, 1 ≤ s.count.toNat ∧ s.count.toNat ≤ s.modulus.toNat ∧
    s.modulus.toNat ≤ s.cfg.seenCap ∧ ¬ (s.klen = 32#6 ∧ s.nlen = 12#4) := ⟨{ ready with klen := 31#6 }, by decide⟩

/-- V-DRAW-CAP, row 1: five words are needed for five values, the last of them from the second pool. -/
theorem test_witness_DrawClosedForm : ∃ (s : State) (n : Nat), s.klen = 32#6 ∧ s.nlen = 12#4 ∧ 1 ≤ s.count.toNat ∧
    s.count.toNat ≤ s.modulus.toNat ∧ s.modulus.toNat ≤ s.cfg.seenCap ∧ 1 ≤ n ∧ n ≤ streamLength s.cfg ∧
    (drawnAfter s.cfg s.keyb s.nonb s.modulus n).length = s.count.toNat ∧
    (drawnAfter s.cfg s.keyb s.nonb s.modulus (n - 1)).length < s.count.toNat ∧ n = 5 :=
  ⟨drawing 5#32 8#32 .little, 5, by decide +kernel⟩

/-- The least and the greatest COUNT and MODULUS. -/
theorem test_witness_DrawOutcomeByStream : (∃ s : State, s.klen = 32#6 ∧ s.nlen = 12#4 ∧ 1 ≤ s.count.toNat ∧
      s.count.toNat ≤ s.modulus.toNat ∧ s.modulus.toNat ≤ s.cfg.seenCap ∧ s.modulus = 1#32) ∧
    ∃ s : State, s.klen = 32#6 ∧ s.nlen = 12#4 ∧ 1 ≤ s.count.toNat ∧ s.count.toNat ≤ s.modulus.toNat ∧
      s.modulus.toNat ≤ s.cfg.seenCap ∧ s.count = 1000#32 :=
  ⟨⟨{ ready with count := 1#32, modulus := 1#32 }, by decide⟩, ⟨{ ready with count := 1000#32 }, by decide⟩⟩

theorem test_witness_DrawResultsDistinctInRange : ∃ s t, exec .draw s = .next t ∧ t.done = true := by
  obtain ⟨t, h, hd⟩ := next_of_after (i := .draw) (s := drawing 5#32 8#32 .little) (p := fun t => t.done) (by decide +kernel)
  exact ⟨_, t, h, hd⟩

/-- V-DRAW-CAP, row 4: (8, 8). -/
theorem test_witness_DrawAllIsPermutation : ∃ s t, exec .draw s = .next t ∧ t.done = true ∧ s.count = s.modulus := by
  obtain ⟨t, h, hd⟩ := next_of_after (i := .draw) (s := drawing 8#32 8#32 .big) (p := fun t => t.done) (by decide +kernel)
  exact ⟨_, t, h, hd, rfl⟩

theorem test_witness_DrawOneOfOne : ∃ s : State, s.klen = 32#6 ∧ s.nlen = 12#4 ∧ s.count = 1#32 ∧ s.modulus = 1#32 :=
  ⟨{ ready with count := 1#32, modulus := 1#32 }, by decide⟩

/-- Two states that differ in MASK_KEEP, SEEN_CAP, LEN, CTR and SUFFIX. -/
theorem test_witness_DrawDeterminedByInputs : ∃ s1 s2 : State, s1.keyb = s2.keyb ∧ s1.klen = s2.klen ∧ s1.nonb = s2.nonb ∧
    s1.nlen = s2.nlen ∧ s1.count = s2.count ∧ s1.modulus = s2.modulus ∧ s1.cfg.poolCap = s2.cfg.poolCap ∧
    s1.cfg.suffixOrder = s2.cfg.suffixOrder ∧ (s1.modulus.toNat ≤ s1.cfg.seenCap ↔ s2.modulus.toNat ≤ s2.cfg.seenCap) ∧
    s1.cfg.maskKeep ≠ s2.cfg.maskKeep ∧ s1.cfg.seenCap ≠ s2.cfg.seenCap ∧ s1.suffix ≠ s2.suffix :=
  ⟨ready, { ready with cfg := keepHighWide, len := 5#64, ctr := 9#32, suffix := 3#32 }, by decide⟩

theorem test_witness_DrawSmallerIsInitialPart : ∃ (s t1 t2 : State) (c1 c2 : Word), c1.toNat ≤ c2.toNat ∧
    exec .draw { s with count := c1 } = .next t1 ∧ t1.done = true ∧ exec .draw { s with count := c2 } = .next t2 ∧
    t2.done = true := by
  obtain ⟨t1, h1, d1⟩ := next_of_after (i := .draw) (s := { drawing 1#32 8#32 .little with count := 2#32 })
    (p := fun t => t.done) (by decide +kernel)
  obtain ⟨t2, h2, d2⟩ := next_of_after (i := .draw) (s := { drawing 1#32 8#32 .little with count := 5#32 })
    (p := fun t => t.done) (by decide +kernel)
  exact ⟨_, t1, t2, 2#32, 5#32, by decide, h1, d1, h2, d2⟩

/-- One command of each kind that leaves a register of the others alone. -/
theorem test_witness_InputsWrittenOnlyByTheirCommands : ∃ (i : Instr) (s t : State), exec i s = .next t ∧ i ≠ .srst ∧
    (i ≠ .kclr ∧ ∀ b, i ≠ .kpush b) ∧ (i ≠ .nclr ∧ ∀ b, i ≠ .npush b) ∧ ((∀ v, i ≠ .lenlo v) ∧ ∀ v, i ≠ .lenhi v) ∧
    (∀ v, i ≠ .setcnt v) ∧ (∀ v, i ≠ .setmod v) := by
  obtain ⟨t, h, -⟩ := next_of_after (i := .draw) (s := drawing 5#32 8#32 .little) (p := fun t => t.done) (by decide +kernel)
  exact ⟨.draw, _, t, h, by simp⟩

theorem test_witness_SetupCommandsKeepResults : ∃ i, isCallCommand i = false ∧ i ≠ .srst ∧ i = .setmod 0#32 :=
  ⟨_, by decide, by decide, rfl⟩

/-- A call that succeeds, and one that fails. -/
theorem test_witness_NoPartialResults : (∃ i s t, isCallCommand i = true ∧ exec i s = .next t ∧ t.done = true) ∧
    ∃ i s t, isCallCommand i = true ∧ exec i s = .next t ∧ t.done = false := by
  obtain ⟨t, h, hd⟩ := next_of_after (i := .genbits) (s := ready) (p := fun t => t.done) (by decide +kernel)
  obtain ⟨u, g, gd⟩ := next_of_after (i := .genbits) (s := State.reset) (p := fun t => !t.done) (by decide +kernel)
  exact ⟨⟨.genbits, _, t, rfl, h, hd⟩, ⟨.genbits, _, u, rfl, g, by simpa using gd⟩⟩

/-- A call that ends with ESTICKY as it was, one that sets it, and SRST clearing it. -/
theorem test_witness_StickyErrorFlag :
    (∃ i s t, isCallCommand i = true ∧ exec i s = .next t ∧ t.done = true) ∧
    (∃ i s t, isCallCommand i = true ∧ exec i s = .next t ∧ t.done = false) ∧
    ∃ i s t, exec i s = .next t ∧ s.esticky = true ∧ t.esticky = false :=
  ⟨test_witness_NoPartialResults.1, test_witness_NoPartialResults.2, ⟨.srst, { ready with esticky := true }, _, rfl, rfl, rfl⟩⟩

/-- A state with results meets the invariant, and steps. -/
theorem twoResults_between : BetweenCommands twoResults := by
  refine ⟨?_, ?_, ⟨[776#32, 553#32], rfl, rfl, by decide, ?_, ?_⟩, ?_, ?_, ⟨rfl, rfl, rfl⟩⟩
  all_goals
    simp [twoResults, ready, State.reset, State.resetWith, Config.standard, LengthsBounded, PoolOrdered, OutputHeld, StatusHeld]

theorem test_witness_InvariantKeptByEveryStep : ∃ s t, BetweenCommands s ∧ step s = .next t ∧ s.rcnt ≠ 0#32 ∧ s.host ≠ [] :=
  ⟨{ twoResults with host := [.command 0x07000003E8#40] }, _, twoResults_between, rfl, by decide, by decide⟩

/-- The ends of the two ranges above the CSRs (R52): the first and the last result; 16, 0x7FFF, the first address past the
results, and 0xFFFF. -/
theorem test_witness_ReadPortServes : ∃ s : State, BetweenCommands s ∧
    (∀ a ∈ [0x8000#16, 0x8001#16], 15 < a.toNat ∧ 32768 ≤ a.toNat ∧ a.toNat - 32768 < s.rcnt.toNat) ∧
    ∀ a ∈ [0x0010#16, 0x7FFF#16, 0x8002#16, 0xFFFF#16], 15 < a.toNat ∧
      ¬ (32768 ≤ a.toNat ∧ a.toNat - 32768 < s.rcnt.toNat) :=
  ⟨twoResults, twoResults_between, by simp [twoResults], by simp [twoResults]⟩

theorem test_witness_StatusAndErrBits : ∃ i j : Nat, i < 3 ∧ 7 ≤ j ∧ i = 2 ∧ j = 7 := ⟨2, 7, by decide⟩

/-- Two states that differ in the key, the nonce, S, X, WN, POOL, SEEN and RES above RCNT and look the same to the host; and
a command that takes a secret byte. -/
theorem test_witness_PortsRevealNoSecrets : ∃ (s t : State) (i : Instr), SameReadable s t ∧ isCallCommand i = false ∧
    i = .kpush 0xFF#8 ∧ s.keyb ≠ t.keyb ∧ s.nonb ≠ t.nonb ∧ s.pool ≠ t.pool ∧ s.res ≠ t.res :=
  ⟨twoResults,
    { twoResults with
      keyb := Vector.replicate 32 1#8, nonb := Vector.replicate 12 2#8, sreg := Vector.replicate 16 3#32
      xreg := Vector.replicate 16 4#32, wn := Vector.replicate 12 5#8, pool := [(0, 6#32)], seen := [(0, true)]
      res := Memory.fromList 0 [776#32, 553#32, 7#32] },
    .kpush 0xFF#8,
    ⟨rfl, rfl, ⟨rfl, rfl, rfl⟩, ⟨rfl, rfl, rfl, rfl, rfl, rfl⟩, ⟨rfl, rfl, rfl, rfl⟩, rfl, rfl, by decide, rfl, rfl⟩,
    rfl, rfl, by decide, by decide, by decide, by decide⟩

end Sys2Proof.Machine.Tests
end

section
/-! The byte order of the model (spec/00_scope.md, R12; R75, R76): the arithmetic of LE32 and BYTES32, and the settling of O23. -/

namespace Sys2Proof.Machine

/-- LE32 as a sum (R12): four bytes never reach `2^32`, so nothing is lost. -/
theorem le32_toNat (b0 b1 b2 b3 : Byte) :
    (le32 b0 b1 b2 b3).toNat = b0.toNat + 256 * b1.toNat + 65536 * b2.toNat + 16777216 * b3.toNat := by
  have hlt : b0.toNat + 256 * b1.toNat + 65536 * b2.toNat + 16777216 * b3.toNat < 2 ^ 32 := by omega
  rw [le32, BitVec.toNat_ofNat, Nat.mod_eq_of_lt hlt]

/-- Byte `k` of a word as the base-256 digit `k` (R11). -/
theorem byteOf_toNat (w : Word) (k : Nat) : (byteOf w k).toNat = w.toNat / 256 ^ k % 256 := by
  rw [byteOf, BitVec.extractLsb'_toNat, Nat.shiftRight_eq_div_pow, Nat.pow_mul]

/-- BYTES32 lists the base-256 digits of a word; the top one needs no reduction (R12). -/
theorem bytes32_map_toNat (w : Word) : (bytes32 w).map BitVec.toNat =
    [w.toNat % 256, w.toNat / 256 % 256, w.toNat / 65536 % 256, w.toNat / 16777216] := by
  have htop : w.toNat / 16777216 % 256 = w.toNat / 16777216 := by omega
  simp [bytes32, byteOf_toNat, htop]

/-- BYTES32 undoes LE32 (R12): the digits of the sum are the bytes it was made of. -/
theorem bytes32_le32 (b0 b1 b2 b3 : Byte) : bytes32 (le32 b0 b1 b2 b3) = [b0, b1, b2, b3] := by
  have hinj : Function.Injective (List.map (BitVec.toNat (w := 8))) :=
    List.map_injective_iff.mpr fun _ _ => BitVec.eq_of_toNat_eq
  apply hinj
  rw [bytes32_map_toNat, le32_toNat]
  simp only [List.map_cons, List.map_nil, List.cons.injEq, and_true]
  omega

/-- Words laid out little-endian and read back in fours are the words (R75 (d), R76). -/
theorem wordsOfBytes_flatMap_bytes32 (ws : List Word) : wordsOfBytes (ws.flatMap bytes32) = ws := by
  induction ws with
  | nil => rfl
  | cons w ws ih =>
    calc wordsOfBytes ((w :: ws).flatMap bytes32)
        = le32 (byteOf w 0) (byteOf w 1) (byteOf w 2) (byteOf w 3) :: wordsOfBytes (ws.flatMap bytes32) := rfl
      _ = w :: ws := by rw [le32_byteOf, ih]

/-- Settles O23: each clause is the arithmetic lemma of its function, and a serialised block is its words laid out
little-endian. -/
theorem wordsAndBytesAgree : Obligations.WordsAndBytesAgree :=
  ⟨le32_toNat, bytes32_map_toNat, bytes32_le32, le32_byteOf,
    fun o => ⟨wordsOfBytes_flatMap_bytes32 o.toList, serialize_length o⟩⟩

end Sys2Proof.Machine
end

section
/-! What the setup commands and the calls write, once per class of command (R22, R23, R34 to R36, R250), and the settling of
O52: the host's inputs are written by their own commands and by SRST. -/

namespace Sys2Proof.Machine

/-! ### The setup commands -/

/-- KLEN after one more KPUSH, as a function of KLEN alone (R242). -/
def nextKlen (l : BitVec 6) : BitVec 6 := if l.toNat < 32 then l + 1#6 else if l = 32#6 then 33#6 else l

/-- NLEN after one more NPUSH, as a function of NLEN alone (R244). -/
def nextNlen (l : BitVec 4) : BitVec 4 := if l.toNat < 12 then l + 1#4 else if l = 12#4 then 13#4 else l

/-- KLEN saturates at 33 (R22). -/
theorem nextKlen_le {l : BitVec 6} (h : l.toNat ≤ 33) : (nextKlen l).toNat ≤ 33 := by
  unfold nextKlen
  split
  · bv_omega
  · split
    · decide
    · exact h

/-- NLEN saturates at 13 (R23). -/
theorem nextNlen_le {l : BitVec 4} (h : l.toNat ≤ 13) : (nextNlen l).toNat ≤ 13 := by
  unfold nextNlen
  split
  · bv_omega
  · split
    · decide
    · exact h

/-- KPUSH writes KEYB and KLEN only, whichever of its three cases applies (R242). -/
theorem pushKeyByte_state (b : Byte) (s : State) : ∃ k, pushKeyByte b s = { s with keyb := k, klen := nextKlen s.klen } := by
  unfold pushKeyByte nextKlen
  split
  · exact ⟨_, rfl⟩
  · exact ⟨s.keyb, by split <;> rfl⟩

/-- NPUSH writes NONB and NLEN only, whichever of its three cases applies (R244). -/
theorem pushNonceByte_state (b : Byte) (s : State) :
    ∃ n, pushNonceByte b s = { s with nonb := n, nlen := nextNlen s.nlen } := by
  unfold pushNonceByte nextNlen
  split
  · exact ⟨_, rfl⟩
  · exact ⟨s.nonb, by split <;> rfl⟩

/-- The host's inputs as it can read them back (R50): every one of R22, R23, R34 to R36 but the bytes of KEYB and NONB. -/
structure ReadableInputs where
  klen : BitVec 6
  nlen : BitVec 4
  len : BitVec 64
  count : Word
  modulus : Word

/-- The readable inputs a state holds. -/
def State.readableInputs (s : State) : ReadableInputs := ⟨s.klen, s.nlen, s.len, s.count, s.modulus⟩

/-- What a setup command makes of the readable inputs (R240 to R248); nothing for any other command. -/
def inputsAfter : Instr → ReadableInputs → ReadableInputs
  | .kclr, x => { x with klen := 0#6 }
  | .kpush _, x => { x with klen := nextKlen x.klen }
  | .nclr, x => { x with nlen := 0#4 }
  | .npush _, x => { x with nlen := nextNlen x.nlen }
  | .lenlo v, x => { x with len := joinHalves (lenHigh x.len) v }
  | .lenhi v, x => { x with len := joinHalves v (lenLow x.len) }
  | .setcnt v, x => { x with count := v }
  | .setmod v, x => { x with modulus := v }
  | .nop, x | .genbits, x | .genwords, x | .draw, x | .srst, x => x

/-- The state with other inputs, and BUSY = 0. -/
def State.withInputs (s : State) (k : Key) (n : Nonce) (x : ReadableInputs) : State :=
  { s with keyb := k, klen := x.klen, nonb := n, nlen := x.nlen, len := x.len, count := x.count, modulus := x.modulus,
           busy := false }

/-- A setup command leaves the key and nonce bytes it may, the readable inputs `inputsAfter` gives, and all else as it was
(R240 to R248, R250). -/
theorem exec_setup {i : Instr} (hc : isCallCommand i = false) (hr : i ≠ .srst) (s : State) :
    ∃ k n, exec i s = .next (s.withInputs k n (inputsAfter i s.readableInputs)) ∧
      ((i ≠ .kclr ∧ ∀ b, i ≠ .kpush b) → k = s.keyb) ∧ ((i ≠ .nclr ∧ ∀ b, i ≠ .npush b) → n = s.nonb) := by
  cases i with
  | nop | lenlo _ | lenhi _ | setcnt _ | setmod _ => exact ⟨s.keyb, s.nonb, rfl, fun _ => rfl, fun _ => rfl⟩
  | kclr => exact ⟨_, s.nonb, rfl, fun h => absurd rfl h.1, fun _ => rfl⟩
  | nclr => exact ⟨s.keyb, _, rfl, fun _ => rfl, fun h => absurd rfl h.1⟩
  | kpush b =>
    obtain ⟨k, hk⟩ := pushKeyByte_state b s
    exact ⟨k, s.nonb, by rw [exec, execKpush, hk]; rfl, fun h => absurd rfl (h.2 b), fun _ => rfl⟩
  | npush b =>
    obtain ⟨n, hn⟩ := pushNonceByte_state b s
    exact ⟨s.keyb, n, by rw [exec, execNpush, hn]; rfl, fun _ => rfl, fun h => absurd rfl (h.2 b)⟩
  | genbits | genwords | draw => cases hc
  | srst => exact absurd rfl hr

/-! ### The calls -/

theorem CallFrame.trans {s t u : State} (h1 : CallFrame s t) (h2 : CallFrame t u) : CallFrame s u := by
  obtain ⟨⟨k1, l1⟩, ⟨n1, m1⟩, ⟨a1, b1, c1⟩, d1, e1⟩ := h1
  obtain ⟨⟨k2, l2⟩, ⟨n2, m2⟩, ⟨a2, b2, c2⟩, d2, e2⟩ := h2
  exact ⟨⟨k2.trans k1, l2.trans l1⟩, ⟨n2.trans n1, m2.trans m1⟩, ⟨a2.trans a1, b2.trans b1, c2.trans c1⟩, d2.trans d1,
    e2.trans e1⟩

theorem callFrame_callStart (s : State) : CallFrame s (callStart s) :=
  ⟨⟨rfl, rfl⟩, ⟨rfl, rfl⟩, ⟨rfl, rfl, rfl⟩, rfl, rfl⟩

theorem callFrame_raise (e : CallError) (s : State) : CallFrame s (raise e s) :=
  ⟨⟨rfl, rfl⟩, ⟨rfl, rfl⟩, ⟨rfl, rfl, rfl⟩, rfl, rfl⟩

theorem callFrame_drawInit (s : State) : CallFrame s (drawInit s) :=
  ⟨⟨rfl, rfl⟩, ⟨rfl, rfl⟩, ⟨rfl, rfl, rfl⟩, rfl, rfl⟩

theorem callFrame_drawEnd (s : State) : CallFrame s (callOk (forgetDrawScope s)) :=
  ⟨⟨rfl, rfl⟩, ⟨rfl, rfl⟩, ⟨rfl, rfl, rfl⟩, rfl, rfl⟩

theorem callFrame_deliver (nbytes r : Nat) (s : State) : CallFrame s (deliver nbytes r s) := by
  obtain ⟨a, b, f, h⟩ := deliver_state nbytes r s
  simp [CallFrame, SameKey, SameNonce, SameArguments, SameModel, h]

/-- DRAW writes no input from CALLSTART to the end of its loop. -/
theorem LoopFrame.callFrame {s t : State} (h : LoopFrame (drawInit (callStart s)) t) : CallFrame s t := by
  have hd := (callFrame_callStart s).trans (callFrame_drawInit _)
  exact hd.trans ⟨⟨h.keyb, h.klen⟩, ⟨h.nonb, h.nlen⟩, ⟨h.len, h.count, h.modulus⟩, h.cfg, h.host⟩

/-- No call writes a host's input, whichever way it ends (R61 (d) and (e), R218). -/
theorem exec_call_frame {i : Instr} {s t : State} (hc : isCallCommand i = true) (h : exec i s = .next t) :
    CallFrame s t := by
  have hs := callFrame_callStart s
  cases i with
  | genbits =>
    rcases genbits_outcomes s with ⟨e, he, -⟩ | ⟨-, -, he⟩ <;> cases he.symm.trans h
    · exact hs.trans (callFrame_raise e _)
    · exact hs.trans (callFrame_deliver _ _ _)
  | genwords =>
    rcases genwords_outcomes s with ⟨e, he, -⟩ | ⟨-, -, he⟩ <;> cases he.symm.trans h
    · exact hs.trans (callFrame_raise e _)
    · exact hs.trans (callFrame_deliver _ _ _)
  | draw =>
    rcases draw_outcomes s with ⟨-, he⟩ | ⟨-, -, he⟩ | ⟨-, -, _, s', -, he, -, hf, -⟩ | ⟨-, -, s', he, -, hf, -⟩ <;>
      cases he.symm.trans h
    · exact hs.trans (callFrame_raise _ _)
    · exact (hs.trans (callFrame_drawInit _)).trans (callFrame_raise _ _)
    · exact hf.callFrame.trans (callFrame_drawEnd s')
    · exact hf.callFrame.trans (callFrame_raise _ s')
  | nop | kclr | kpush _ | nclr | npush _ | lenlo _ | lenhi _ | setcnt _ | setmod _ | srst => cases hc

/-! ### The readable inputs a command leaves alone -/

theorem inputsAfter_klen {i : Instr} {x : ReadableInputs} (h : i ≠ .kclr ∧ ∀ b, i ≠ .kpush b) :
    (inputsAfter i x).klen = x.klen := by
  cases i with
  | kclr => exact absurd rfl h.1
  | kpush b => exact absurd rfl (h.2 b)
  | _ => rfl

theorem inputsAfter_nlen {i : Instr} {x : ReadableInputs} (h : i ≠ .nclr ∧ ∀ b, i ≠ .npush b) :
    (inputsAfter i x).nlen = x.nlen := by
  cases i with
  | nclr => exact absurd rfl h.1
  | npush b => exact absurd rfl (h.2 b)
  | _ => rfl

theorem inputsAfter_len {i : Instr} {x : ReadableInputs} (h : (∀ v, i ≠ .lenlo v) ∧ ∀ v, i ≠ .lenhi v) :
    (inputsAfter i x).len = x.len := by
  cases i with
  | lenlo v => exact absurd rfl (h.1 v)
  | lenhi v => exact absurd rfl (h.2 v)
  | _ => rfl

theorem inputsAfter_count {i : Instr} {x : ReadableInputs} (h : ∀ v, i ≠ .setcnt v) :
    (inputsAfter i x).count = x.count := by
  cases i with
  | setcnt v => exact absurd rfl (h v)
  | _ => rfl

theorem inputsAfter_modulus {i : Instr} {x : ReadableInputs} (h : ∀ v, i ≠ .setmod v) :
    (inputsAfter i x).modulus = x.modulus := by
  cases i with
  | setmod v => exact absurd rfl (h v)
  | _ => rfl

/-- Settles O52: a call writes no input at all, and a setup command only the one it is named for. -/
theorem inputsWrittenOnlyByTheirCommands : Obligations.InputsWrittenOnlyByTheirCommands := by
  intro i s t h hr
  cases hc : isCallCommand i with
  | true =>
    obtain ⟨hk, hn, ⟨hl, hco, hm⟩, hmod⟩ := exec_call_frame hc h
    exact ⟨fun _ => hk, fun _ => hn, fun _ => hl, fun _ => hco, fun _ => hm, hmod⟩
  | false =>
    obtain ⟨k, n, he, hk, hn⟩ := exec_setup hc hr s
    cases he.symm.trans h
    exact ⟨fun g => ⟨hk g, inputsAfter_klen g⟩, fun g => ⟨hn g, inputsAfter_nlen g⟩, inputsAfter_len, inputsAfter_count,
      inputsAfter_modulus, rfl, rfl⟩

end Sys2Proof.Machine
end

section
/-! The invariant of the states between commands (R61, R257): it holds after reset, and every way a command or a step can
end keeps it; and the settling of O16, O57 and O56. -/

namespace Sys2Proof.Machine

/-! ### Reset -/

/-- No entries, RCNT 0. -/
theorem resultsHeld_empty {s : State} (hr : s.res = []) (hc : s.rcnt = 0#32) : ResultsHeld s :=
  ⟨[], hr, by simp [hc], List.nodup_nil, by simp, by simp⟩

/-- An empty pool (IDX = HAVE = 0) is ordered. -/
theorem poolOrdered_empty {s : State} (hi : s.idx = 0#32) (hh : s.haveReg = 0#32) : PoolOrdered s := by
  simp [PoolOrdered, hi, hh]

/-- The reset values meet the invariant (R65). -/
theorem betweenCommands_resetWith (c : Config) : BetweenCommands (State.resetWith c) := by
  refine ⟨?lengths, poolOrdered_empty rfl rfl, resultsHeld_empty rfl rfl, ?output, ?status, rfl, rfl, rfl⟩
  case lengths => simp [LengthsBounded, State.resetWith]
  case output => simp [OutputHeld, State.resetWith]
  case status => simp [StatusHeld, State.resetWith]

/-- A reset from any state meets the invariant: what it speaks of has the reset values (R249, R310). -/
theorem betweenCommands_resetCore (s : State) : BetweenCommands (resetCore s) := betweenCommands_resetWith s.cfg

/-- Settles O57: the reset values meet the invariant with every configuration, the default one included. -/
theorem invariantAfterReset : Obligations.InvariantAfterReset :=
  ⟨betweenCommands_resetWith, betweenCommands_resetWith _⟩

/-- Settles O16: SRST is a reset, whose fields the laws of the state give one by one. -/
theorem srstGivesResetValues : Obligations.SrstGivesResetValues := by
  intro s
  refine ⟨resetCore s, rfl, ?_⟩
  simp [SameModel, Memory.read]

/-! ### Words that run no command -/

/-- Accepting a word changes BUSY and the host's list, and BUSY is 0 again at the command's end (R37). -/
theorem BetweenCommands.complete_accept {s : State} (h : BetweenCommands s) (rest : List HostInput) :
    BetweenCommands (complete (accept rest s)) := by
  obtain ⟨hl, hp, hr, ho, ⟨-, hst⟩, hm⟩ := h
  exact ⟨hl, hp, hr, ho, ⟨rfl, hst⟩, hm⟩

/-- IllegalCommand is the one error that may stand beside a result (R104, R257). -/
theorem BetweenCommands.illegalCommand {s : State} (h : BetweenCommands (complete s)) :
    BetweenCommands (illegalCommand s) := by
  obtain ⟨hl, hp, hr, ho, ⟨-, -, -, -, -, -, hnone⟩, hm⟩ := h
  refine ⟨hl, hp, hr, ho, ⟨rfl, ?_, ?_, fun _ => rfl, fun _ => rfl, fun _ => .inr rfl, hnone⟩, hm⟩ <;>
    simp

/-! ### Setup commands -/

theorem inputsAfter_klen_le {i : Instr} {x : ReadableInputs} (h : x.klen.toNat ≤ 33) :
    (inputsAfter i x).klen.toNat ≤ 33 := by
  cases i with
  | kclr => simp [inputsAfter]
  | kpush b => exact nextKlen_le h
  | _ => exact h

theorem inputsAfter_nlen_le {i : Instr} {x : ReadableInputs} (h : x.nlen.toNat ≤ 13) :
    (inputsAfter i x).nlen.toNat ≤ 13 := by
  cases i with
  | nclr => simp [inputsAfter]
  | npush b => exact nextNlen_le h
  | _ => exact h

/-- Of the inputs the invariant asks only that the lengths are in range (R22, R23). -/
theorem BetweenCommands.withInputs {s : State} (h : BetweenCommands (complete s)) (k : Key) (n : Nonce) (i : Instr) :
    BetweenCommands (s.withInputs k n (inputsAfter i s.readableInputs)) := by
  obtain ⟨⟨hk, hn⟩, hrest⟩ := h
  exact ⟨⟨inputsAfter_klen_le hk, inputsAfter_nlen_le hn⟩, hrest⟩

/-! ### The ends of a call -/

/-- SUB is 2 or 6 with CODE 3, and 0 with every other code; no code of a raised error is 5 (R273, R277). -/
theorem callError_codes (e : CallError) :
    e.code.toNat ≤ 5 ∧ (e.code = 3#3 → e.sub = 2#3 ∨ e.sub = 6#3) ∧ (e.code ≠ 3#3 → e.sub = 0#3) := by
  rcases e with _ | _ | (_ | _) | _ <;> decide

/-- A raised error leaves no result and a code of its own: the invariant needs the lengths and the pool registers of the
state before it (R280). -/
theorem betweenCommands_raise (e : CallError) {s : State} (hl : LengthsBounded s) (hp : PoolOrdered s) :
    BetweenCommands (raise e s) := by
  obtain ⟨hcode, hsub, hplain⟩ := callError_codes e
  refine ⟨hl, hp, resultsHeld_empty rfl rfl, ?output, ⟨rfl, hcode, hsub, hplain, fun _ => rfl, ?done, fun _ => ⟨rfl, rfl⟩⟩,
    rfl, rfl, rfl⟩
  case output => simp [OutputHeld]
  case done => exact fun h => absurd h (by simp)

/-- A keystream of a legal length delivered after CALLSTART: OUTLEN counts it without loss, and RES is empty (R33, R157). -/
theorem betweenCommands_deliver {nbytes : Nat} (r : Nat) {s : State} (hn : nbytes ≤ maxKsBytes)
    (h : BetweenCommands (complete s)) : BetweenCommands (deliver nbytes r (callStart s)) := by
  obtain ⟨hl, hp, -, -, -, hpool, hseen, -⟩ := h
  obtain ⟨a, b, f, hd⟩ := deliver_state nbytes r (callStart s)
  rw [hd]
  refine ⟨hl, hp, resultsHeld_empty rfl rfl, ?output, ?status, hpool, hseen, rfl⟩
  case output =>
    have : nbytes % 18446744073709551616 = nbytes := Nat.mod_eq_of_lt (by simp only [maxKsBytes] at hn; omega)
    simp [OutputHeld, maskFinal_length, keystream_length, this, hn]
  case status => simp [StatusHeld]

/-- Wherever a draw stands in its stream, IDX is at most HAVE (R61 (a), R188). -/
theorem DrawAt.poolOrdered {t : Nat} {s : State} (h : DrawAt t s) : PoolOrdered s := by
  by_cases h0 : t = 0
  · obtain ⟨hi, hh, -⟩ := h.start h0
    exact poolOrdered_empty hi hh
  · obtain ⟨hi, hh, -⟩ := h.filled h0
    have := Nat.mod_lt (t - 1) s.cfg.poolCap_pos
    exact ⟨by omega, .inr hh⟩

/-- The lengths are inputs, which no call writes. -/
theorem CallFrame.lengthsBounded {s t : State} (h : CallFrame s t) (hl : LengthsBounded s) : LengthsBounded t := by
  obtain ⟨⟨-, hk⟩, ⟨-, hn⟩, -⟩ := h
  rwa [LengthsBounded, hk, hn]

/-- What has been drawn is a legal content of RES as soon as MODULUS passed PARAMCHECK (R215, R219). -/
theorem Collected.resultsHeld {c : Config} {k : Key} {n : Nonce} {t : Nat} {s : State}
    (h : Collected (drawnAfter c k n s.modulus t) s) (hm : s.modulus.toNat ≤ s.cfg.seenCap) : ResultsHeld s := by
  have hnodup : (drawnAfter c k n s.modulus t).Nodup := firstOccurrences_nodup _
  have hlt := drawnAfter_lt c k n s.modulus h.pos t
  exact ⟨_, h.res, h.rcnt, hnodup, fun v hv => (hlt v hv).trans_le hm, (length_le_of_nodup_lt _ _ hnodup hlt).trans hm⟩

/-- A draw that ends with its results after DRAWINIT: OUT is empty, and the status is that of CALLOK (R218, R256). -/
theorem betweenCommands_drawEnd {s t : State} (hl : LengthsBounded s) (hf : LoopFrame (drawInit (callStart s)) t)
    (hp : PoolOrdered t) (hr : ResultsHeld t) : BetweenCommands (callOk (forgetDrawScope t)) := by
  have hout : t.out = [] := hf.out
  have hlen : t.outLen = 0#64 := hf.outLen
  have hcode : t.errCode = 0#3 := hf.errCode
  have hsub : t.errSub = 0#3 := hf.errSub
  have hwf : Memory.wf t.res = true := by
    obtain ⟨vs, hvs, -⟩ := hr
    rw [hvs]; exact memory_wf_fromList vs 0
  refine ⟨hf.callFrame.lengthsBounded hl, hp, hr, ?output, ?status, rfl, rfl, hwf⟩
  case output => simp [OutputHeld, hout, hlen]
  case status => simp [StatusHeld, hcode, hsub]

/-- DRAW keeps the invariant in each of its four ends. -/
theorem BetweenCommands.draw {s t : State} (h : BetweenCommands (complete s)) (he : exec .draw s = .next t) :
    BetweenCommands t := by
  obtain ⟨hl, hp, -⟩ := h
  rcases draw_outcomes s with ⟨-, hd⟩ | ⟨-, -, hd⟩ | ⟨hv, -, n, s', -, hd, hat, hf, hcol, -⟩ | ⟨-, -, s', hd, hat, hf, -⟩ <;>
    cases hd.symm.trans he
  · exact betweenCommands_raise _ hl hp
  · exact betweenCommands_raise _ ((LoopFrame.refl _).callFrame.lengthsBounded hl) (poolOrdered_empty rfl rfl)
  · obtain ⟨-, -, hcap⟩ := (paramsValid_iff s).1 hv
    obtain ⟨-, -, ⟨-, -, hm⟩, hc, -⟩ := hf.callFrame
    rw [← hm] at hcol
    exact betweenCommands_drawEnd hl hf hat.poolOrdered (hcol.resultsHeld (by rw [hm, hc]; exact hcap))
  · exact betweenCommands_raise _ (hf.callFrame.lengthsBounded hl) hat.poolOrdered

/-! ### Every command, every step -/

/-- Every command keeps the invariant, BUSY aside, which is 1 while it runs. -/
theorem BetweenCommands.exec {i : Instr} {s t : State} (h : BetweenCommands (complete s)) (he : exec i s = .next t) :
    BetweenCommands t := by
  have ⟨hl, hp, _⟩ := h
  by_cases hr : i = .srst
  · subst hr
    cases he
    exact betweenCommands_resetCore s
  cases hc : isCallCommand i with
  | false =>
    obtain ⟨k, n, hs, -⟩ := exec_setup hc hr s
    cases hs.symm.trans he
    exact h.withInputs k n i
  | true =>
    cases i with
    | genbits =>
      rcases genbits_outcomes s with ⟨e, hg, -⟩ | ⟨-, hn, hg⟩ <;> cases hg.symm.trans he
      · exact betweenCommands_raise e hl hp
      · exact betweenCommands_deliver _ hn h
    | genwords =>
      rcases genwords_outcomes s with ⟨e, hg, -⟩ | ⟨-, hn, hg⟩ <;> cases hg.symm.trans he
      · exact betweenCommands_raise e hl hp
      · exact betweenCommands_deliver _ hn h
    | draw => exact h.draw he
    | nop | kclr | kpush _ | nclr | npush _ | lenlo _ | lenhi _ | setcnt _ | setmod _ | srst => cases hc

/-- Settles O56, by the cases of a step: idle or held it changes nothing, a reset gives the reset values, an illegal word
writes its error, and a command keeps the invariant from the state that accepted its word. -/
theorem invariantKeptByEveryStep : Obligations.InvariantKeptByEveryStep := by
  intro s t h hst
  rcases step_cases s with ⟨-, he⟩ | ⟨rest, -, he⟩ | ⟨_, _, -, -, he⟩ | ⟨_, rest, _, -, -, -, he⟩ | ⟨_, rest, i, -, -, -, he⟩
  · cases he.symm.trans hst; exact h
  · cases he.symm.trans hst; exact betweenCommands_resetCore _
  · cases he.symm.trans hst; exact h
  · cases he.symm.trans hst; exact (h.complete_accept rest).illegalCommand
  · exact (h.complete_accept rest).exec (he.symm.trans hst)

end Sys2Proof.Machine
end

section
/-! The block counter of a keystream generation (R25, R157), and the settling of O26. -/

namespace Sys2Proof.Machine

/-- A legal request needs at most `MAX_BLOCKS` blocks (R157). -/
theorem blocksFor_le {nbytes : Nat} (h : nbytes ≤ maxKsBytes) : blocksFor nbytes ≤ maxBlocks := by
  simp only [blocksFor, maxKsBytes, maxBlocks] at *
  omega

/-- CTR after `k` turns of a keystream generation is `1 + k`, as long as that is a word (R25, R155). -/
theorem ksLoop_ctr (n : Nonce) {k : Nat} (left : Nat) (s : State) (hk : 1 + k < 4294967296) :
    (ksLoop n k left { s with ctr := ctrInit }).2.ctr.toNat = 1 + k := by
  obtain ⟨a, b, h⟩ := ksLoop_state n k left { s with ctr := ctrInit }
  rw [h]
  simp only [ctrInit, ← BitVec.ofNat_add, BitVec.toNat_ofNat]
  omega

/-- Settles O26: `k` is below the number of blocks, and that is below `2^32`. -/
theorem noBlockWithCounterZero : Obligations.NoBlockWithCounterZero := by
  intro n nbytes k s hn hk
  have hb : blocksFor nbytes ≤ 4294967295 := blocksFor_le hn
  have hlt : 1 + k < 4294967296 := by omega
  exact ⟨ksLoop_ctr n nbytes s hlt, hlt⟩

end Sys2Proof.Machine
end

section
/-! What the host reads (R50, R55, R262, R263): the bits of STATUS and ERR, the replies of the two ports as functions of the
readable fields, and the settling of O59 and O60. -/

namespace Sys2Proof.Machine

/-! ### STATUS and ERR, bit by bit -/

/-- STATUS is the number whose binary digits are the seven flags (R50). -/
theorem statusWord_eq_ofBits (s : State) : s.statusWord =
    BitVec.ofNat 32 (Nat.ofBits ![s.busy, s.done, s.errf, s.esticky, s.kvalid, s.nvalid, s.swrap]) := by
  have hdigits : Nat.ofBits ![s.busy, s.done, s.errf, s.esticky, s.kvalid, s.nvalid, s.swrap] =
      2 * (2 * (2 * (2 * (2 * (2 * s.swrap.toNat + s.nvalid.toNat) + s.kvalid.toNat) + s.esticky.toNat) + s.errf.toNat) +
        s.done.toNat) + s.busy.toNat := by
    simp [Nat.ofBits_succ]
  rw [State.statusWord, hdigits]
  congr 1
  omega

/-- Bits 0 to 6 of STATUS are the flags in their order (R50). -/
theorem statusWord_getLsbD_flag (s : State) (i : Fin 7) : s.statusWord.getLsbD i =
    ![s.busy, s.done, s.errf, s.esticky, s.kvalid, s.nvalid, s.swrap] i := by
  have hi : i.val < 32 := by omega
  rw [statusWord_eq_ofBits, BitVec.getLsbD_ofNat, Nat.testBit_ofBits_lt _ i i.isLt, decide_eq_true hi, Bool.true_and]

/-- Bits 7 and up of STATUS are zero (R50). -/
theorem statusWord_getLsbD_high (s : State) (i : Nat) (h : 7 ≤ i) : s.statusWord.getLsbD i = false := by
  rw [statusWord_eq_ofBits, BitVec.getLsbD_ofNat, Nat.testBit_ofBits_ge _ i h, Bool.and_false]

/-- ERRF as a fact about the number CODE (R40). -/
theorem errf_eq_decide (s : State) : s.errf = decide (s.errCode.toNat ≠ 0) := by
  simp [State.errf, bne, beq_eq_decide, ← BitVec.toNat_inj]

/-- KVALID as a fact about the number KLEN (R40). -/
theorem kvalid_eq_decide (s : State) : s.kvalid = decide (s.klen.toNat = 32) := by
  simp [State.kvalid, beq_eq_decide, ← BitVec.toNat_inj]

/-- NVALID as a fact about the number NLEN (R40). -/
theorem nvalid_eq_decide (s : State) : s.nvalid = decide (s.nlen.toNat = 12) := by
  simp [State.nvalid, beq_eq_decide, ← BitVec.toNat_inj]

/-- Bit `i` of ERR: CODE below bit 4 and SUB from bit 4 on (R50, R277). -/
theorem errWord_getLsbD (s : State) (i : Nat) :
    s.errWord.getLsbD i = if i < 4 then s.errCode.getLsbD i else s.errSub.getLsbD (i - 4) := by
  have hcode : s.errCode.toNat < 2 ^ 4 := by omega
  have hword : s.errWord = BitVec.ofNat 32 (2 ^ 4 * s.errSub.toNat + s.errCode.toNat) := by
    rw [State.errWord, Nat.add_comm]; rfl
  rw [hword, BitVec.getLsbD_ofNat, Nat.testBit_two_pow_mul_add _ hcode]
  split
  · have hi : i < 32 := by omega
    rw [BitVec.testBit_toNat, decide_eq_true hi, Bool.true_and]
  · rw [BitVec.testBit_toNat]
    by_cases hi : i < 32
    · rw [decide_eq_true hi, Bool.true_and]
    · rw [decide_eq_false hi, Bool.false_and, BitVec.getLsbD_of_ge s.errSub (i - 4) (by omega)]

/-- Settles O59, by the bits of the two words. -/
theorem statusAndErrBits : Obligations.StatusAndErrBits := by
  intro s
  refine ⟨?status, fun i hi => ⟨?code, ?sub⟩, ?gap, fun i hi => ?top⟩
  case status =>
    have flag := statusWord_getLsbD_flag s
    rw [← errf_eq_decide, ← kvalid_eq_decide, ← nvalid_eq_decide]
    exact ⟨flag 0, flag 1, flag 2, flag 3, flag 4, flag 5, flag 6, statusWord_getLsbD_high s⟩
  case code => rw [errWord_getLsbD, if_pos (by omega)]
  case sub => rw [errWord_getLsbD, if_neg (by omega), Nat.add_sub_cancel_left]
  case gap => rw [errWord_getLsbD, if_pos (by decide), BitVec.getLsbD_of_ge s.errCode 3 (by decide)]
  case top => rw [errWord_getLsbD, if_neg (by omega), BitVec.getLsbD_of_ge s.errSub (i - 4) (by omega)]

/-! ### The ports see the readable fields alone -/

/-- Every CSR is a function of readable fields (R50, R55). -/
theorem csrAt_congr {s t : State} (h : SameReadable s t) : csrAt t = csrAt s := by
  obtain ⟨hk, hn, ⟨hl, hc, hm⟩, ⟨hctr, hsuf, hsw, hidx, hhave, hlim⟩, ⟨hd, hcode, hsub, hst⟩, hb, hr, -, -, ho⟩ := h
  funext a
  simp only [csrAt, State.statusWord, State.errWord, State.errf, State.kvalid, State.nvalid, hk, hn, hl, hc, hm, hctr, hsuf,
    hsw, hidx, hhave, hlim, hd, hcode, hsub, hst, hb, hr, ho]

/-- The RES window shows entries below RCNT alone (R52, R55). -/
theorem resAt_congr {s t : State} (h : SameReadable s t) (i : Nat) : resAt t i = resAt s i := by
  obtain ⟨-, -, -, -, -, -, hr, hres, -⟩ := h
  unfold resAt
  rw [hr]
  split
  · rename_i hi
    rw [hres i hi]
  · rfl

theorem rdTransfer_congr {s t : State} (h : SameReadable s t) (a : RdAddr) : t.rdTransfer a = s.rdTransfer a := by
  have hb : t.busy = s.busy := by obtain ⟨-, -, -, -, -, hb, -⟩ := h; exact hb
  simp only [State.rdTransfer, rdReply, csrAt_congr h, resAt_congr h, hb]

theorem outTransfer_congr {s t : State} (h : SameReadable s t) (k : Nat) : t.outTransfer k = s.outTransfer k := by
  obtain ⟨-, -, -, -, -, hb, -, -, ho, -⟩ := h
  simp only [State.outTransfer, hb, ho]

/-! ### No setup command and no reset makes a difference readable -/

/-- States that look the same hold the same readable inputs. -/
theorem SameReadable.readableInputs_eq {s t : State} (h : SameReadable s t) : t.readableInputs = s.readableInputs := by
  obtain ⟨hk, hn, ⟨hl, hc, hm⟩, -⟩ := h
  rw [State.readableInputs, hk, hn, hl, hc, hm, State.readableInputs]

/-- Whatever bytes two states that look the same get into KEYB and NONB, they look the same when they get the same readable
inputs. -/
theorem SameReadable.withInputs {s t : State} (h : SameReadable s t) (k k' : Key) (n n' : Nonce) (x : ReadableInputs) :
    SameReadable (s.withInputs k n x) (t.withInputs k' n' x) := by
  obtain ⟨-, -, -, hctr, hst, -, hres⟩ := h
  exact ⟨rfl, rfl, ⟨rfl, rfl, rfl⟩, hctr, hst, rfl, hres⟩

/-- Any two states look the same after a reset (R65). -/
theorem sameReadable_resetCore (s t : State) : SameReadable (resetCore s) (resetCore t) :=
  ⟨rfl, rfl, ⟨rfl, rfl, rfl⟩, ⟨rfl, rfl, rfl, rfl, rfl, rfl⟩, ⟨rfl, rfl, rfl, rfl⟩, rfl, rfl, fun _ _ => rfl, rfl, rfl⟩

/-- A command that is no call leaves two states that look the same looking the same (R55, R250). -/
theorem SameReadable.exec {i : Instr} {s t : State} (h : SameReadable s t) (hc : isCallCommand i = false) :
    ∃ s' t', exec i s = .next s' ∧ exec i t = .next t' ∧ SameReadable s' t' := by
  by_cases hr : i = .srst
  · subst hr
    exact ⟨_, _, rfl, rfl, sameReadable_resetCore s t⟩
  · obtain ⟨k, n, hs, -⟩ := exec_setup hc hr s
    obtain ⟨k', n', ht, -⟩ := exec_setup hc hr t
    rw [h.readableInputs_eq] at ht
    exact ⟨_, _, hs, ht, h.withInputs k k' n n' _⟩

/-- Settles O60: the replies are functions of the readable fields, and those stay equal. -/
theorem portsRevealNoSecrets : Obligations.PortsRevealNoSecrets :=
  fun _ _ h => ⟨rdTransfer_congr h, outTransfer_congr h, fun _ hc => h.exec hc⟩

end Sys2Proof.Machine
end

section
/-! What a keystream request of a bit length leaves in its final byte (R82, R159, R160), and the settling of O28. -/

namespace Sys2Proof.Machine

/-! ### The mask of the final byte -/

/-- The mask of MASKLAST has exactly the bits MASK_KEEP keeps (R159). -/
theorem lastMask_getLsbD (keep : MaskKeep) (r : Nat) {j : Nat} (hj : j < 8) :
    (lastMask keep r).getLsbD j = keptBit keep r j := by
  cases keep with
  | low => rw [lastMask, BitVec.getLsbD_ofNat, decide_eq_true hj, Bool.true_and, Nat.testBit_two_pow_sub_one, keptBit]
  | high =>
    have hones : Nat.testBit 255 (j - (8 - r)) = true := by
      rw [show 255 = 2 ^ 8 - 1 from rfl, Nat.testBit_two_pow_sub_one]
      exact decide_eq_true (by omega)
    rw [lastMask, BitVec.getLsbD_ofNat, decide_eq_true hj, Bool.true_and, Nat.testBit_shiftLeft, hones, Bool.and_true,
      keptBit]

/-- Bit `j` of a masked byte: the byte's own where it is kept, 0 elsewhere (R159). -/
theorem maskLast_getLsbD (keep : MaskKeep) (b : Byte) (r : Nat) {j : Nat} (hj : j < 8) :
    (maskLast keep b r).getLsbD j = (keptBit keep r j && b.getLsbD j) := by
  rw [maskLast, BitVec.getLsbD_and, lastMask_getLsbD keep r hj, Bool.and_comm]

/-! ### The final byte of a request -/

/-- A bit length that fills no whole number of bytes takes one byte more than it fills (R13). -/
theorem ceil8_of_partial {l : Nat} (h : l % 8 ≠ 0) : ceil8 l = l / 8 + 1 := by rw [ceil8, if_neg h]

theorem deliver_out (nbytes r : Nat) (s : State) :
    (deliver nbytes r s).out = maskFinal s.cfg.maskKeep r (keystream s.nonb nbytes s).1 := by
  obtain ⟨a, b, f, h⟩ := deliver_state nbytes r s
  rw [h]

theorem deliver_out_length (nbytes r : Nat) (s : State) : (deliver nbytes r s).out.length = nbytes := by
  rw [deliver_out, maskFinal_length, keystream_length]

/-- Byte `i` of what a keystream call delivers: KSBYTE, masked when it is the last one and `r` is not 0 (R160). -/
theorem deliver_out_getElem? {nbytes i : Nat} (r : Nat) (s : State) (hi : i < nbytes) : (deliver nbytes r s).out[i]? =
    some (if i + 1 = nbytes ∧ r ≠ 0 then maskLast s.cfg.maskKeep (ksByte s.keyb s.nonb i) r else ksByte s.keyb s.nonb i) := by
  rw [deliver_out, maskFinal_getElem?, keystream_getElem? _ _ _ _ hi, keystream_length, Option.map_some]

/-- A GENBITS that ends with DONE = 1 has delivered the keystream: an error leaves DONE = 0 (R280). -/
theorem genbits_of_done {s t : State} (h : exec .genbits s = .next t) (hd : t.done = true) :
    t = deliver (ceil8 s.len.toNat) (s.len.toNat % 8) (callStart s) := by
  rcases genbits_outcomes s with ⟨e, he, -⟩ | ⟨-, -, he⟩ <;> cases he.symm.trans h
  · exact absurd hd (by simp)
  · rfl

/-- Settles O28: the final byte of a request that is no whole number of bytes is the masked KSBYTE, and the mask has
exactly the kept bits. -/
theorem finalByteIsMasked : Obligations.FinalByteIsMasked := by
  intro s t h hd hr
  rw [genbits_of_done h hd, ceil8_of_partial hr]
  exact ⟨_, (deliver_out_getElem? _ _ (Nat.lt_succ_self _)).trans (congrArg some (if_pos ⟨rfl, hr⟩)),
    deliver_out_length _ _ _, fun _ hj => maskLast_getLsbD _ _ _ hj⟩

end Sys2Proof.Machine
end

section
/-! The settling of O7: the steps that run no command (R92, R104, R261, R310, R312). -/

namespace Sys2Proof.Machine

/-- Settles O7, case by case of the host's next input. An illegal command ends with BUSY = 0 whether or not accepting its
word set BUSY, and SRST is the reset that hardware reset is (R249). -/
theorem otherInputsSettle : Obligations.OtherInputsSettle :=
  ⟨fun _ hidle => step_idle hidle, fun _ _ _ hw hbusy => step_held hw hbusy,
    fun _ _ _ _ hw hbusy hd => step_illegal hw hbusy hd, fun _ _ hreset => step_hardReset hreset⟩

end Sys2Proof.Machine
end

section
/-! Encoding and decoding as one correspondence (spec/30_encoding.md): the decoder accepts exactly the encodings, and a word
is one exactly when the class of its opcode admits its immediate. With it the settling of O1, O2, O3, O4 and O5. -/

namespace Sys2Proof

/-! ### The decoder accepts exactly the encodings (R100, R101, R103) -/

/-- A command of class none is read from the zero immediate only (R101). -/
theorem decodeNone_eq_ok_iff {i j : Instr} {op : Byte} {imm : Word} :
    decodeNone i op imm = .ok j ↔ imm = 0#32 ∧ i = j := by
  unfold decodeNone
  split <;> simp [*]

/-- A command of class byte is read from the bytes only, and carries the byte (R101). -/
theorem decodeByte_eq_ok_iff {f : Byte → Instr} {j : Instr} {op : Byte} {imm : Word} :
    decodeByte f op imm = .ok j ↔ ∃ b, imm = b.zeroExtend 32 ∧ f b = j := by
  constructor
  · intro h
    unfold decodeByte at h
    split at h
    · rename_i hupper
      exact ⟨_, (zext_byte imm hupper).symm, Except.ok.inj h⟩
    · cases h
  · rintro ⟨b, rfl, rfl⟩
    obtain ⟨hupper, hbyte⟩ := byte_zext b
    rw [decodeByte, if_pos hupper, hbyte]

/-- A packed word determines its two fields (R100). -/
theorem packFields_inj {op op' : Byte} {imm imm' : Word} :
    packFields op imm = packFields op' imm' ↔ op = op' ∧ imm = imm' := by
  constructor
  · intro h
    exact ⟨by simpa only [pack_op] using congrArg opField h, by simpa only [pack_imm] using congrArg immField h⟩
  · rintro ⟨rfl, rfl⟩
    rfl

/-- A word is the encoding of a command exactly when it has the command's opcode and immediate (R100). -/
theorem encode_eq_iff {i : Instr} {w : CmdWord} :
    encode i = w ↔ opcodeOf i = opField w ∧ immediateOf i = immField w := by
  rw [← packFields_inj, pack_fields, encode]

/-- What the decoder accepts is the encoding of the command it reads: row by row of R103, the opcode is the row's and the
immediate is one of its class. -/
theorem encode_of_decode {w : CmdWord} {i : Instr} (h : decode w = .ok i) : encode i = w := by
  rw [encode_eq_iff]
  unfold decode at h
  split at h
  case h_1 hop | h_2 hop | h_4 hop | h_10 hop | h_11 hop | h_12 hop | h_13 hop =>
    obtain ⟨himm, rfl⟩ := decodeNone_eq_ok_iff.1 h
    exact ⟨BitVec.eq_of_toNat_eq hop.symm, himm.symm⟩
  case h_3 hop | h_5 hop =>
    obtain ⟨b, himm, rfl⟩ := decodeByte_eq_ok_iff.1 h
    exact ⟨BitVec.eq_of_toNat_eq hop.symm, himm.symm⟩
  case h_6 hop | h_7 hop | h_8 hop | h_9 hop =>
    cases h
    exact ⟨BitVec.eq_of_toNat_eq hop.symm, rfl⟩
  case h_14 => cases h

/-- The decoder reads every encoding back, whichever class the command is of. -/
theorem decode_encode (i : Instr) : decode (encode i) = .ok i := by
  rw [encode, decode, pack_op, pack_imm]
  cases i with
  | nop | kclr | nclr | genbits | genwords | draw | srst => exact decodeNone_eq_ok_iff.2 ⟨rfl, rfl⟩
  | kpush b | npush b => exact decodeByte_eq_ok_iff.2 ⟨b, rfl, rfl⟩
  | lenlo _ | lenhi _ | setcnt _ | setmod _ => rfl

/-- Settles O1, by the classes of the commands. -/
theorem decodeOfEncode : Obligations.DecodeOfEncode := decode_encode

/-- Settles O2, by the rows of the decoder. -/
theorem encodeOfDecode : Obligations.EncodeOfDecode := fun _ _ => encode_of_decode

/-- Settles O4: the legal words are encodings, so they are read back; the illegal ones are run through the decoder. -/
theorem workedEncodings : Obligations.WorkedEncodings :=
  ⟨decode_encode .nop, decode_encode (.kpush 0x9F#8), decode_encode (.setmod 1000#32), decode_encode (.lenhi 0x1FF#32),
    decode_encode .draw, rfl, rfl, rfl, rfl⟩

/-! ### Which words are encodings (R101, R104) -/

/-- The immediates a class lets pass (R101). -/
def ImmClass.admits : ImmClass → Nat → Prop
  | .none, imm => imm = 0
  | .byte, imm => imm < 256
  | .word, _ => True

/-- The opcode has a class, and the class lets the immediate pass (R100, R101, R103). -/
def legalFields (op imm : Nat) : Prop := ∃ c, immClass? op = some c ∧ c.admits imm

/-- Where the class is known, it decides. -/
theorem legalFields_iff_admits {op imm : Nat} {c : ImmClass} (h : immClass? op = some c) :
    legalFields op imm ↔ c.admits imm := by
  simp [legalFields, h]

/-- The immediates of the class-byte commands are the words below 256. -/
theorem exists_eq_zeroExtend_iff {imm : Word} : (∃ b : Byte, imm = b.zeroExtend 32) ↔ imm.toNat < 256 := by
  constructor
  · rintro ⟨b, rfl⟩
    rw [BitVec.zeroExtend, BitVec.toNat_setWidth_of_le (by decide)]
    exact b.isLt
  · intro h
    exact ⟨imm.setWidth 8, (BitVec.setWidth_setWidth_eq_self h).symm⟩

/-- The opcode and the immediate of every command are legal (R101, R103). -/
theorem legalFields_of_instr (i : Instr) : legalFields (opcodeOf i).toNat (immediateOf i).toNat := by
  cases i with
  | nop | kclr | nclr | genbits | genwords | draw | srst => exact ⟨.none, rfl, rfl⟩
  | kpush b | npush b => exact ⟨.byte, rfl, exists_eq_zeroExtend_iff.1 ⟨b, rfl⟩⟩
  | lenlo _ | lenhi _ | setcnt _ | setmod _ => exact ⟨.word, rfl, trivial⟩

/-- The decoder reads a command from every legal word: it has a row for each opcode that has a class. -/
theorem exists_decode_of_legalFields {w : CmdWord} (h : legalFields (opField w).toNat (immField w).toNat) :
    ∃ i, decode w = .ok i := by
  obtain ⟨c, hc, himm⟩ := h
  unfold decode
  split
  case h_1 hop | h_2 hop | h_4 hop | h_10 hop | h_11 hop | h_12 hop | h_13 hop =>
    cases (congrArg immClass? hop).symm.trans hc
    exact ⟨_, decodeNone_eq_ok_iff.2 ⟨BitVec.eq_of_toNat_eq himm, rfl⟩⟩
  case h_3 hop | h_5 hop =>
    cases (congrArg immClass? hop).symm.trans hc
    obtain ⟨b, hb⟩ := exists_eq_zeroExtend_iff.2 himm
    exact ⟨_, decodeByte_eq_ok_iff.2 ⟨b, hb, rfl⟩⟩
  case h_6 | h_7 | h_8 | h_9 => exact ⟨_, rfl⟩
  case h_14 => simp [immClass?, *] at hc

/-- The decoder accepts exactly the legal words (R103, R104). -/
theorem exists_decode_iff {w : CmdWord} :
    (∃ i, decode w = .ok i) ↔ legalFields (opField w).toNat (immField w).toNat := by
  refine ⟨?_, exists_decode_of_legalFields⟩
  rintro ⟨i, h⟩
  obtain ⟨hop, himm⟩ := encode_eq_iff.1 (encode_of_decode h)
  rw [← hop, ← himm]
  exact legalFields_of_instr i

/-- The three checks of R104 together let exactly the legal words pass. -/
theorem wellFormed_iff {w : CmdWord} : WellFormed w = true ↔ legalFields (opNumber w) (immNumber w) := by
  unfold WellFormed opcodeAssigned noneImmZero byteImmZero legalFields
  cases immClass? (opNumber w) with
  | none => simp
  | some c => cases c <;> simp [ImmClass.admits]

/-- R104 lists the opcodes without a class, and for each class the immediates it does not let pass. -/
theorem illegalFields_iff {op imm : Nat} (hop : op < 256) : Machine.illegalFields op imm ↔ ¬ legalFields op imm := by
  unfold Machine.illegalFields legalFields immClass?
  split
  case h_14 =>
    refine iff_of_true ?unassigned (by simp)
    simp only [imp_false] at *
    omega
  all_goals simp [ImmClass.admits]

/-! ### The opcode map as match and mask (R103) -/

/-- The bits of the immediate that a class wants zero. -/
def ImmClass.mask : ImmClass → Word
  | .none => 0xFFFFFFFF#32
  | .byte => 0xFFFFFF00#32
  | .word => 0#32

/-- The bits a class wants zero are zero exactly when it lets the immediate pass. -/
theorem and_mask_eq_zero_iff (c : ImmClass) (imm : Word) : imm &&& c.mask = 0#32 ↔ c.admits imm.toNat := by
  cases c with
  | none =>
    have hmask : ImmClass.mask .none = BitVec.allOnes 32 := rfl
    rw [hmask, BitVec.and_allOnes, ← BitVec.toNat_inj]
    rfl
  | byte =>
    have hmask : ImmClass.mask .byte = BitVec.allOnes 32 <<< 8 := by decide
    rw [hmask, ← BitVec.shiftLeft_ushiftRight, ← BitVec.toNat_inj]
    simp [ImmClass.admits, Nat.shiftRight_eq_div_pow, Nat.shiftLeft_eq]
    omega
  | word => simp [ImmClass.mask, ImmClass.admits]

/-- Under a mask that covers the opcode, a word matches by its opcode and by its masked immediate. -/
theorem and_packFields_eq_iff {w : CmdWord} {op : Byte} {mask : Word} :
    w &&& packFields 0xFF#8 mask = packFields op 0#32 ↔ opField w = op ∧ immField w &&& mask = 0#32 := by
  have hand : w &&& packFields 0xFF#8 mask = packFields (opField w) (immField w &&& mask) :=
    calc w &&& packFields 0xFF#8 mask
        = packFields (opField w) (immField w) &&& packFields 0xFF#8 mask := by rw [pack_fields]
      _ = packFields (opField w &&& 0xFF#8) (immField w &&& mask) := BitVec.and_append
      _ = packFields (opField w) (immField w &&& mask) := congrArg (packFields · _) BitVec.and_allOnes
  rw [hand, packFields_inj]

end Sys2Proof

namespace Sys2Proof.Machine

/-- The opcode of a row of R103. -/
def OpcodeRow.op (row : OpcodeRow) : Byte := opField row.matchBits

/-- Match and mask of each of the thirteen rows follow from its opcode and the class of that (R101, R103). -/
theorem opcodeRows_class : ∀ row ∈ opcodeRows, ∃ c ∈ immClass? row.op.toNat,
    row.matchBits = packFields row.op 0#32 ∧ row.maskBits = packFields 0xFF#8 c.mask := by
  decide

/-- The commands of a row are those with its opcode (R103). -/
theorem opcodeRows_isCommand : ∀ row ∈ opcodeRows, ∀ i, row.isCommand i = true ↔ opcodeOf i = row.op := by
  intro row hrow i
  revert row
  cases i <;> simp [opcodeRows, opcodeOf, OpcodeRow.op, opField]

/-- No two rows have one opcode (R103). -/
theorem opcodeRows_op_pairwise : opcodeRows.Pairwise fun r1 r2 => r1.op ≠ r2.op := by decide

/-- A word selects a row exactly when it has the row's opcode and is legal. -/
theorem selects_iff {row : OpcodeRow} (hrow : row ∈ opcodeRows) {w : CmdWord} :
    w &&& row.maskBits = row.matchBits ↔
      opField w = row.op ∧ legalFields (opField w).toNat (immField w).toNat := by
  obtain ⟨c, hc, hmatch, hmask⟩ := opcodeRows_class row hrow
  rw [hmatch, hmask, and_packFields_eq_iff, and_mask_eq_zero_iff]
  refine and_congr_right fun hop => ?_
  rw [hop, legalFields_iff_admits hc]

/-- Settles O3: selecting a row is being legal with the row's opcode, and so is decoding to one of its commands; two rows
differ in their opcodes. -/
theorem opcodeMapSelects : Obligations.OpcodeMapSelects := by
  constructor
  · intro row hrow w
    rw [selects_iff hrow, ← exists_decode_iff, ← exists_and_left]
    refine exists_congr fun i => ?_
    rw [opcodeRows_isCommand row hrow, and_comm]
    refine and_congr_right fun h => ?_
    obtain ⟨hop, -⟩ := encode_eq_iff.1 (encode_of_decode h)
    rw [hop]
  · refine opcodeRows_op_pairwise.imp_of_mem fun h1 h2 hne w ⟨hs1, hs2⟩ => ?_
    obtain ⟨hop1, -⟩ := (selects_iff h1).1 hs1
    obtain ⟨hop2, -⟩ := (selects_iff h2).1 hs2
    exact hne (hop1.symm.trans hop2)

/-- Settles O5: R104's list, the decoder and the checks all draw the line at the legal words; the effect is what the
definition writes. -/
theorem illegalCommandEffect : Obligations.IllegalCommandEffect := by
  have illegal (w : CmdWord) : illegalFields (w.toNat / 4294967296) (w.toNat % 4294967296) ↔
      ¬ legalFields (opField w).toNat (immField w).toNat := by
    rw [← opField_toNat, ← immField_toNat, illegalFields_iff (opField w).isLt]
  refine ⟨fun w => ?decoder, fun w => ?checks, fun _ => rfl⟩
  case decoder =>
    rw [illegal, ← exists_decode_iff]
    cases decode w <;> simp
  case checks =>
    rw [illegal, opField_toNat, immField_toNat, ← Bool.not_eq_true, wellFormed_iff]
    rfl

end Sys2Proof.Machine
end

section
/-! What runs of setup commands leave (R22, R23, R34, R242, R244): the buffers hold the bytes pushed since they were cleared,
and LEN its two halves; and the settling of O15, the pseudo-instructions of R108. -/

namespace Sys2Proof.Machine

/-! ### Commands one after another -/

/-- A run goes on where its first part ended. -/
theorem runInstrs_append {is js : List Instr} {s t : State} (h : runInstrs is s = some t) :
    runInstrs (is ++ js) s = runInstrs js t := by
  induction is generalizing s with
  | nil => cases h; rfl
  | cons i is ih =>
    rw [List.cons_append, runInstrs]
    rw [runInstrs] at h
    cases he : exec i s with
    | next u => rw [he] at h; exact ih h
    | fault _ | refused _ => rw [he] at h; cases h

/-- One command for each byte of a list: what holds of the bytes so far, and is kept by the command of one more byte, holds
of all of them at the end. -/
theorem runInstrs_map {f : Byte → Instr} {P : List Byte → State → Prop}
    (step : ∀ {ps s} b, P ps s → ∃ t, exec (f b) s = .next t ∧ P (ps ++ [b]) t) (bs : List Byte) :
    ∀ {ps s}, P ps s → ∃ t, runInstrs (bs.map f) s = some t ∧ P (ps ++ bs) t := by
  induction bs with
  | nil => exact fun {ps s} h => ⟨s, rfl, by rwa [List.append_nil]⟩
  | cons b bs ih =>
    intro ps s h
    obtain ⟨t, he, ht⟩ := step b h
    obtain ⟨u, hr, hu⟩ := ih ht
    exact ⟨u, by rw [List.map_cons, runInstrs, he]; exact hr, by rwa [List.append_cons]⟩

/-! ### The key and nonce buffers -/

/-- A buffer of `n` bytes and its length register after the bytes `ps` were pushed into the empty buffer: the register
saturates one above `n`, and the buffer holds the first `n` bytes, with zeros after them (R22, R23). -/
def HoldsPushed {n : Nat} (v : Vector Byte n) (len : Nat) (ps : List Byte) : Prop :=
  len = min ps.length (n + 1) ∧ ∀ (i : Nat) (h : i < n), v[i] = (ps[i]?).getD 0#8

theorem holdsPushed_nil (n : Nat) : HoldsPushed (Vector.replicate n 0#8) 0 [] := by
  simp [HoldsPushed]

/-- A byte pushed into a buffer that is not full is stored behind the others. -/
theorem HoldsPushed.store {n len : Nat} {v : Vector Byte n} {ps : List Byte} (h : HoldsPushed v len ps) (hlen : len < n)
    (b : Byte) : HoldsPushed (v.set len b) (len + 1) (ps ++ [b]) := by
  obtain ⟨hmin, hv⟩ := h
  have hps : len = ps.length := by omega
  subst hps
  refine ⟨by simp; omega, fun i hi => ?_⟩
  rw [Vector.getElem_set, List.getElem?_append, hv i hi]
  split
  · next he => simp [he]
  · next hne =>
    split
    · rfl
    · rw [List.getElem?_eq_none (by omega), List.getElem?_eq_none (by simp; omega)]

/-- A byte pushed into a full buffer is dropped, and the length register goes to or stays at one above the capacity. -/
theorem HoldsPushed.drop {n len : Nat} {v : Vector Byte n} {ps : List Byte} (h : HoldsPushed v len ps) (hlen : n ≤ len)
    (b : Byte) : HoldsPushed v (n + 1) (ps ++ [b]) := by
  obtain ⟨hmin, hv⟩ := h
  refine ⟨by simp; omega, fun i hi => ?_⟩
  rw [hv i hi, List.getElem?_append_left (by omega)]

/-- A buffer that was given exactly as many bytes as it has holds those. -/
theorem HoldsPushed.eq_of_toList {n len : Nat} {v w : Vector Byte n} (h : HoldsPushed v len w.toList) :
    v = w ∧ len = n := by
  obtain ⟨hmin, hv⟩ := h
  rw [Vector.length_toList] at hmin
  refine ⟨Vector.ext fun i hi => ?_, by omega⟩
  rw [hv i hi, List.getElem?_eq_getElem (by simpa using hi)]
  simp

/-- The key buffer holds the bytes pushed since KCLR (R242). -/
def KeyHolds (ps : List Byte) (s : State) : Prop := HoldsPushed s.keyb s.klen.toNat ps

/-- The nonce buffer holds the bytes pushed since NCLR (R244). -/
def NonceHolds (ps : List Byte) (s : State) : Prop := HoldsPushed s.nonb s.nlen.toNat ps

/-- KPUSH, in its three cases, adds its byte to those pushed (R242). -/
theorem exec_kpush_keyHolds {ps : List Byte} {s : State} (b : Byte) (h : KeyHolds ps s) :
    ∃ t, exec (.kpush b) s = .next t ∧ KeyHolds (ps ++ [b]) t := by
  refine ⟨_, rfl, ?_⟩
  rcases lt_trichotomy s.klen.toNat 32 with hlt | heq | hgt
  · have hlen : (s.klen + 1#6).toNat = s.klen.toNat + 1 := by bv_omega
    rw [pushKeyByte_store b hlt, KeyHolds, complete_keyb, complete_klen, hlen]
    exact h.store hlt b
  · rw [pushKeyByte_drop b (BitVec.eq_of_toNat_eq heq)]
    exact h.drop heq.ge b
  · have hlen : s.klen.toNat = 33 := by obtain ⟨hmin, -⟩ := h; omega
    rw [pushKeyByte_full b hgt, KeyHolds, complete_keyb, complete_klen, hlen]
    exact h.drop hgt.le b

/-- NPUSH, in its three cases, adds its byte to those pushed (R244). -/
theorem exec_npush_nonceHolds {ps : List Byte} {s : State} (b : Byte) (h : NonceHolds ps s) :
    ∃ t, exec (.npush b) s = .next t ∧ NonceHolds (ps ++ [b]) t := by
  refine ⟨_, rfl, ?_⟩
  rcases lt_trichotomy s.nlen.toNat 12 with hlt | heq | hgt
  · have hlen : (s.nlen + 1#4).toNat = s.nlen.toNat + 1 := by bv_omega
    rw [pushNonceByte_store b hlt, NonceHolds, complete_nonb, complete_nlen, hlen]
    exact h.store hlt b
  · rw [pushNonceByte_drop b (BitVec.eq_of_toNat_eq heq)]
    exact h.drop heq.ge b
  · have hlen : s.nlen.toNat = 13 := by obtain ⟨hmin, -⟩ := h; omega
    rw [pushNonceByte_full b hgt, NonceHolds, complete_nonb, complete_nlen, hlen]
    exact h.drop hgt.le b

/-- KCLR and then one KPUSH for each byte of a list (R241, R242). -/
theorem runInstrs_kclr_kpush (bs : List Byte) (s : State) :
    ∃ t, runInstrs (.kclr :: bs.map .kpush) s = some t ∧ KeyHolds bs t :=
  runInstrs_map exec_kpush_keyHolds bs (ps := []) (holdsPushed_nil 32)

/-- NCLR and then one NPUSH for each byte of a list (R243, R244). -/
theorem runInstrs_nclr_npush (bs : List Byte) (s : State) :
    ∃ t, runInstrs (.nclr :: bs.map .npush) s = some t ∧ NonceHolds bs t :=
  runInstrs_map exec_npush_nonceHolds bs (ps := []) (holdsPushed_nil 12)

/-! ### The halves of LEN -/

@[simp] theorem lenLow_joinHalves (high low : Word) : lenLow (joinHalves high low) = low :=
  BitVec.extractLsb'_append_eq_right

@[simp] theorem lenHigh_joinHalves (high low : Word) : lenHigh (joinHalves high low) = high :=
  BitVec.extractLsb'_append_eq_left

/-- A length put together from its quotient and its remainder by `2^32` (R108). -/
theorem joinHalves_div_mod (l : BitVec 64) :
    joinHalves (BitVec.ofNat 32 (l.toNat / 4294967296)) (BitVec.ofNat 32 (l.toNat % 4294967296)) = l := by
  rw [joinHalves, ← BitVec.toNat_inj, BitVec.toNat_append, BitVec.toNat_ofNat, BitVec.toNat_ofNat,
    ← Nat.shiftLeft_add_eq_or_of_lt (by omega), Nat.shiftLeft_eq]
  omega

/-- LENLO and LENHI with the halves of a length set LEN to it (R108, R245, R246). -/
theorem runInstrs_setLenCommands (l : BitVec 64) (s : State) :
    runInstrs (setLenCommands l) s = some (complete { s with len := l }) := by
  simp [setLenCommands, runInstrs, exec, execLenlo, execLenhi, joinHalves_div_mod, complete]

/-! ### The pseudo-instructions -/

theorem loadkey_loads (s : State) (k : Key) :
    ∃ t, runInstrs (Pseudo.loadkey k).expand s = some t ∧ t.keyb = k ∧ t.klen = 32#6 := by
  obtain ⟨t, hr, ht⟩ := runInstrs_kclr_kpush k.toList s
  obtain ⟨hk, hl⟩ := HoldsPushed.eq_of_toList ht
  exact ⟨t, hr, hk, BitVec.eq_of_toNat_eq hl⟩

theorem loadnonce_loads (s : State) (n : Nonce) :
    ∃ t, runInstrs (Pseudo.loadnonce n).expand s = some t ∧ t.nonb = n ∧ t.nlen = 12#4 := by
  obtain ⟨t, hr, ht⟩ := runInstrs_nclr_npush n.toList s
  obtain ⟨hn, hl⟩ := HoldsPushed.eq_of_toList ht
  exact ⟨t, hr, hn, BitVec.eq_of_toNat_eq hl⟩

/-- Settles O15: the loads are runs of pushes into a cleared buffer, SETLEN writes the two halves, and the others go on from
where their setup commands ended. -/
theorem pseudoInstructionsLoad : Obligations.PseudoInstructionsLoad := by
  refine ⟨loadkey_loads, loadnonce_loads, fun s l => ?setlen, fun s l => ?keystream, fun s c m => ?drawu⟩
  case setlen => exact ⟨_, runInstrs_setLenCommands l s, rfl⟩
  case keystream =>
    have hset := runInstrs_setLenCommands l s
    exact ⟨_, hset, runInstrs_append hset, runInstrs_append hset⟩
  case drawu => exact ⟨_, rfl, rfl, rfl, rfl⟩

end Sys2Proof.Machine
end

section
/-! The Block Transform (spec/40_block_transform.md): ROTL32 as the library's rotation, the quarter-round as invertible
steps and as a function on the array, the lanes of a round, the twenty rounds; and the settling of O18 to O22. -/

namespace Sys2Proof.Machine

/-! ### ROTL32 (R132) -/

theorem rotl32_eq_rotateLeft (w : Word) {n : Nat} (hn : n < 32) : rotl32 w n = w.rotateLeft n := by
  rw [BitVec.rotateLeft_def, Nat.mod_eq_of_lt hn]
  rfl

/-- Settles O18: a bit that stays below bit 32 comes from the left shift, one that wraps around from the right shift. -/
theorem rotateMovesBits : Obligations.RotateMovesBits := by
  intro w n i _ hn hi
  rw [rotl32_eq_rotateLeft w (by omega), BitVec.getLsbD_rotateLeft_of_le (by omega)]
  by_cases hwrap : i + n < 32
  · have hmod : (i + n) % 32 = i + n := Nat.mod_eq_of_lt hwrap
    simp [hmod, hwrap]
  · have hmod : (i + n) % 32 = i + n - 32 := by omega
    have hlow : i + n - 32 < n := by omega
    have hsource : 32 - n + (i + n - 32) = i := by omega
    simp [hmod, hlow, hsource]

/-- No bit is lost by a rotation, so it can be undone. -/
theorem eq_of_rotl32_eq {n : Nat} (h1 : 1 ≤ n) (hn : n ≤ 31) {w w' : Word} (h : rotl32 w n = rotl32 w' n) : w = w' := by
  refine BitVec.eq_of_getLsbD_eq fun i hi => ?_
  rw [← rotateMovesBits w n i h1 hn hi, ← rotateMovesBits w' n i h1 hn hi, h]

/-! ### The quarter-round on four words (R133) -/

/-- Three of the twelve steps of QR: `y` is added to `x`, the sum goes into `z`, and `z` is rotated. -/
def mixStep (n : Nat) (x y z : Word) : Word × Word := (add32 x y, rotl32 (xor32 z (add32 x y)) n)

/-- With `y` known, the step can be undone: its results give back `x` and `z`. -/
theorem mixStep_inj {n : Nat} (h1 : 1 ≤ n) (hn : n ≤ 31) {x x' y z z' : Word} :
    mixStep n x y z = mixStep n x' y z' ↔ x = x' ∧ z = z' := by
  refine ⟨fun h => ?_, fun ⟨hx, hz⟩ => hx ▸ hz ▸ rfl⟩
  obtain ⟨hsum, hrot⟩ := Prod.mk.inj h
  obtain rfl : x = x' := (BitVec.add_left_inj y).1 hsum
  exact ⟨rfl, (BitVec.xor_left_inj (add32 x y)).1 (eq_of_rotl32_eq h1 hn hrot)⟩

/-- Six of the twelve steps of QR: `d` and `b` take up the sums of the two others, rotated by `n` and by `m`. -/
def quarterHalf (n m : Nat) (q : Word × Word × Word × Word) : Word × Word × Word × Word :=
  let p := mixStep n q.1 q.2.1 q.2.2.2
  let r := mixStep m q.2.2.1 p.2 q.2.1
  (p.1, r.2, r.1, p.2)

/-- The twelve steps of QR are six steps taken twice, with rotations by 16 and 12, then by 8 and 7. -/
theorem quarterWords_eq_quarterHalf (q : Word × Word × Word × Word) :
    quarterWords q.1 q.2.1 q.2.2.1 q.2.2.2 = quarterHalf 8 7 (quarterHalf 16 12 q) := rfl

/-- The six steps can be undone from the last to the first: each one's unchanged word is known by then. -/
theorem quarterHalf_injective {n m : Nat} (hn1 : 1 ≤ n) (hn : n ≤ 31) (hm1 : 1 ≤ m) (hm : m ≤ 31) :
    Function.Injective (quarterHalf n m) := by
  rintro ⟨a, b, c, d⟩ ⟨a', b', c', d'⟩ h
  simp only [quarterHalf, Prod.mk.injEq] at h
  obtain ⟨ha, hb, hc, hd⟩ := h
  rw [hd] at hb hc
  obtain ⟨rfl, rfl⟩ := (mixStep_inj hm1 hm).1 (Prod.ext hc hb)
  obtain ⟨rfl, rfl⟩ := (mixStep_inj hn1 hn).1 (Prod.ext ha hd)
  rfl

/-- Settles O19: QR is two halves, each of them injective, and an injective function on finitely many values is bijective. -/
theorem quarterRoundBijective : Obligations.QuarterRoundBijective := by
  unfold Obligations.QuarterRoundBijective
  simp only [quarterWords_eq_quarterHalf]
  have first : Function.Injective (quarterHalf 16 12) := quarterHalf_injective (by decide) (by decide) (by decide) (by decide)
  have second : Function.Injective (quarterHalf 8 7) := quarterHalf_injective (by decide) (by decide) (by decide) (by decide)
  exact Finite.injective_iff_bijective.1 (second.comp first)

/-! ### The quarter-round on the array (R133) -/

/-- Two blocks with the same sixteen words are the same. -/
theorem block_ext {x y : Block} (h : ∀ e : Fin 16, x[e] = y[e]) : x = y := Vector.ext fun i hi => h ⟨i, hi⟩

/-- A word of X after QR: the last write to its index, or the word as it was. -/
theorem quarterRound_getElem (a b c d e : Fin 16) (x : Block) :
    (quarterRound a b c d x)[e] =
      let q := quarterWords x[a] x[b] x[c] x[d]
      if e = d then q.2.2.2 else if e = c then q.2.2.1 else if e = b then q.2.1 else if e = a then q.1 else x[e] := by
  simp only [quarterRound, Fin.getElem_fin, Vector.getElem_set, Fin.val_inj, eq_comm (a := e)]

/-- QR writes no word but its four, whether or not they are distinct. -/
theorem quarterRound_getElem_of_notMem {a b c d e : Fin 16} (x : Block) (h : e ∉ [a, b, c, d]) :
    (quarterRound a b c d x)[e] = x[e] := by
  simp only [List.mem_cons, List.not_mem_nil, or_false, not_or] at h
  obtain ⟨ha, hb, hc, hd⟩ := h
  simp only [quarterRound_getElem, ha, hb, hc, hd, if_false]

/-- QR reads no word but its four: a word of its result is fixed by them and by that word before. -/
theorem quarterRound_getElem_congr {a b c d e : Fin 16} {x y : Block} (h : ∀ i ∈ [a, b, c, d], x[i] = y[i])
    (he : x[e] = y[e]) : (quarterRound a b c d x)[e] = (quarterRound a b c d y)[e] := by
  simp only [List.forall_mem_cons] at h
  obtain ⟨ha, hb, hc, hd, -⟩ := h
  simp only [quarterRound_getElem, ha, hb, hc, hd, he]

/-- Settles O20: on four distinct indices no write undoes another. -/
theorem quarterRoundTouchesFourWords : Obligations.QuarterRoundTouchesFourWords := by
  intro a b c d x hnodup
  simp only [List.nodup_cons, List.mem_cons, List.not_mem_nil, or_false, not_or] at hnodup
  obtain ⟨⟨hab, hac, had⟩, ⟨hbc, hbd⟩, hcd, -⟩ := hnodup
  refine ⟨?a, ?b, ?c, ?d, fun e => quarterRound_getElem_of_notMem x⟩
  all_goals simp only [quarterRound_getElem, hab, hac, had, hbc, hbd, hcd, if_true, if_false]

/-! ### The lanes of a round (R137) -/

/-- The four indices of a group. -/
def laneIndices (g : Fin 16 × Fin 16 × Fin 16 × Fin 16) : List (Fin 16) := [g.1, g.2.1, g.2.2.1, g.2.2.2]

/-- One quarter-round on an index group, as `runGroups` takes it. -/
def laneRound (x : Block) (g : Fin 16 × Fin 16 × Fin 16 × Fin 16) : Block := quarterRound g.1 g.2.1 g.2.2.1 g.2.2.2 x

theorem runGroups_eq_foldl (gs : List (Fin 16 × Fin 16 × Fin 16 × Fin 16)) (x : Block) :
    runGroups gs x = gs.foldl laneRound x := rfl

/-- A quarter-round before does not matter at a word that is not its own, for a lane that shares none of its words. -/
theorem laneRound_laneRound_getElem {g h : Fin 16 × Fin 16 × Fin 16 × Fin 16} (x : Block) {e : Fin 16}
    (hgh : (laneIndices g).Disjoint (laneIndices h)) (he : e ∉ laneIndices h) :
    (laneRound (laneRound x h) g)[e] = (laneRound x g)[e] :=
  quarterRound_getElem_congr (fun _ hi => quarterRound_getElem_of_notMem x (hgh hi)) (quarterRound_getElem_of_notMem x he)

/-- Quarter-rounds on disjoint groups commute: every word is foreign to one of them, which changes nothing there. -/
theorem laneRound_comm {g h : Fin 16 × Fin 16 × Fin 16 × Fin 16} (x : Block)
    (hgh : (laneIndices g).Disjoint (laneIndices h)) :
    laneRound (laneRound x g) h = laneRound (laneRound x h) g := by
  refine block_ext fun e => ?_
  by_cases he : e ∈ laneIndices g
  · rw [laneRound_laneRound_getElem x hgh (hgh he)]
    exact quarterRound_getElem_of_notMem _ (hgh he)
  · rw [laneRound_laneRound_getElem x hgh.symm he]
    exact (quarterRound_getElem_of_notMem _ he).symm

/-- Groups whose quarter-rounds pairwise commute give the same X in any order. -/
theorem runGroups_perm {gs gs' : List (Fin 16 × Fin 16 × Fin 16 × Fin 16)} (hperm : gs.Perm gs')
    (hlanes : ∀ g ∈ gs', ∀ h ∈ gs', g ≠ h → (laneIndices g).Disjoint (laneIndices h)) (x : Block) :
    runGroups gs x = runGroups gs' x := by
  rw [runGroups_eq_foldl, runGroups_eq_foldl]
  refine (hperm.symm.foldl_eq' (fun g hg h hh z => ?_) x).symm
  by_cases heq : g = h
  · rw [heq]
  · exact laneRound_comm z (hlanes g hg h hh heq)

theorem columnGroups_disjoint :
    ∀ g ∈ columnGroups, ∀ h ∈ columnGroups, g ≠ h → ∀ i ∈ laneIndices g, i ∉ laneIndices h := by decide

theorem diagonalGroups_disjoint :
    ∀ g ∈ diagonalGroups, ∀ h ∈ diagonalGroups, g ≠ h → ∀ i ∈ laneIndices g, i ∉ laneIndices h := by decide

/-! ### The diagonal round as a rotated column round (R137) -/

/-- Where the rotation of the rows takes a word from: in row `r`, `r` places further right, around the end of the row. -/
def rotatedIndex (i : Fin 16) : Fin 16 := ⟨i.val / 4 * 4 + (i.val + i.val / 4) % 4, by omega⟩

theorem rotatedIndex_injective : Function.Injective rotatedIndex := by decide

theorem rotateRows_getElem (x : Block) (i : Fin 16) : (rotateRows x)[i] = x[rotatedIndex i] := by
  fin_cases i <;> rfl

theorem rotateRowsBack_rotateRows (x : Block) : rotateRowsBack (rotateRows x) = x := by
  refine block_ext fun i => ?_
  fin_cases i <;> rfl

/-- The rotation of the rows takes a quarter-round to the one on the places its words move to. -/
theorem rotateRows_quarterRound (a b c d : Fin 16) (x : Block) :
    rotateRows (quarterRound (rotatedIndex a) (rotatedIndex b) (rotatedIndex c) (rotatedIndex d) x) =
      quarterRound a b c d (rotateRows x) := by
  refine block_ext fun e => ?_
  simp only [rotateRows_getElem, quarterRound_getElem, rotatedIndex_injective.eq_iff]

/-- The rotated rows hold the diagonals as their columns. -/
theorem rotateRows_diagonalRound (x : Block) : rotateRows (diagonalRound x) = columnRound (rotateRows x) := by
  simp only [columnRound, ← rotateRows_quarterRound]
  rfl

/-- Settles O21: the lanes of a round share no word, so their quarter-rounds commute; the diagonals are the columns of the
rotated rows. -/
theorem roundLanesCommute : Obligations.RoundLanesCommute := by
  refine ⟨fun gs x => ⟨fun h => ?column, fun h => ?diagonal⟩, fun x => ?rotated⟩
  case column => exact runGroups_perm h columnGroups_disjoint x
  case diagonal => exact runGroups_perm h diagonalGroups_disjoint x
  case rotated => rw [← rotateRows_diagonalRound, rotateRowsBack_rotateRows]

/-! ### The twenty rounds and the feed-forward (R138 to R140, R142) -/

theorem doubleRounds_eq_iterate (n : Nat) (x : Block) : doubleRounds n x = doubleRound^[n] x := by
  induction n generalizing x with
  | zero => rfl
  | succ n ih => exact ih (doubleRound x)

theorem feedForward_getElem_toNat (x s : Block) (i : Fin 16) :
    (feedForward x s)[i].toNat = (x[i].toNat + s[i].toNat) % 4294967296 := by
  rw [feedForward, Fin.getElem_fin, Vector.getElem_ofFn, add32, BitVec.toNat_add]

/-- The block of sixteen zero words. -/
def zeroBlock : Block := Vector.replicate 16 0#32

theorem zeroBlock_getElem (i : Fin 16) : zeroBlock[i] = 0#32 := Vector.getElem_replicate _

/-- Sums, exclusive ors and rotations of zeros are zeros, so QR leaves the zero block as it is (R142 (a)). -/
theorem quarterRound_zeroBlock (a b c d : Fin 16) : quarterRound a b c d zeroBlock = zeroBlock := by
  refine block_ext fun e => ?_
  have hwords : quarterWords 0#32 0#32 0#32 0#32 = (0#32, 0#32, 0#32, 0#32) := by decide
  simp only [quarterRound_getElem, zeroBlock_getElem, hwords, ite_self]

theorem doubleRound_zeroBlock : doubleRound zeroBlock = zeroBlock := by
  simp only [doubleRound, columnRound, diagonalRound, quarterRound_zeroBlock]

theorem rounds20_zeroBlock : rounds20 zeroBlock = zeroBlock := by
  rw [rounds20, doubleRounds_eq_iterate, Function.iterate_fixed doubleRound_zeroBlock]

theorem blockTransform_zeroBlock : blockTransform zeroBlock = zeroBlock := by
  rw [blockTransform, rounds20_zeroBlock]
  decide

/-- Settles O22: the rounds are an iteration, the feed-forward adds modulo `2^32`, and the zero block is fixed by both. -/
theorem blockIsRoundsPlusInput : Obligations.BlockIsRoundsPlusInput :=
  ⟨fun s => ⟨doubleRounds_eq_iterate 10 s, feedForward_getElem_toNat (rounds20 s) s⟩, blockTransform_zeroBlock⟩

end Sys2Proof.Machine
end

section
/-! The Keystream Generator against its closed forms (spec/41_keystream_generator.md): the layout of S, the bytes, words and
counter of KS, and what the two keystream calls deliver; and the settling of O24, O25, O27, O29, O30, O31 and O32. -/

namespace Sys2Proof.Machine

/-! ### The layout of the State Array (R152) -/

theorem stateArray_getElem_key (k : Key) (c : Word) (n : Nonce) {i : Nat} (h : i < 8) :
    (stateArray k c n)[4 + i] = keyWord k ⟨i, h⟩ := by
  interval_cases i <;> rfl

theorem stateArray_getElem_nonce (k : Key) (c : Word) (n : Nonce) {i : Nat} (h : i < 3) :
    (stateArray k c n)[13 + i] = nonceWord n ⟨i, h⟩ := by
  interval_cases i <;> rfl

/-- Settles O24: S is the State Array, whose key and nonce words are LE32 of four bytes each. -/
theorem initStateLayout : Obligations.InitStateLayout := by
  refine fun n s => ⟨rfl, rfl, rfl, rfl, fun i h => ?key, rfl, fun i h => ?nonce, _, rfl⟩
  case key => exact (congrArg BitVec.toNat (stateArray_getElem_key s.keyb s.ctr n h)).trans (le32_toNat _ _ _ _)
  case nonce => exact (congrArg BitVec.toNat (stateArray_getElem_nonce s.keyb s.ctr n h)).trans (le32_toNat _ _ _ _)

/-! ### The closed form of KS (R155, R156, R158) -/

/-- The bytes of KS are the KSBYTEs, in order (R156). -/
theorem keystream_bytes (n : Nonce) (nbytes : Nat) (s : State) :
    (keystream n nbytes s).1 = (List.range nbytes).map (ksByte s.keyb n) := by
  refine List.ext_getElem (by simp [keystream_length]) fun i hi _ => ?_
  have hlt : i < nbytes := by rwa [keystream_length] at hi
  rw [List.getElem_map, List.getElem_range, ← Option.some_inj, ← List.getElem?_eq_getElem,
    keystream_getElem? n nbytes i s hlt]

/-- What KS leaves in CTR, as a number (R158). -/
theorem ctrAfter_toNat (nbytes : Nat) :
    (1#32 + BitVec.ofNat 32 (blocksFor nbytes)).toNat = (1 + (nbytes + 63) / 64) % 4294967296 := by
  rw [← BitVec.ofNat_add, BitVec.toNat_ofNat, blocksFor]

/-- Settles O25: the loop gives the closed form byte by byte, and counts one block per turn. -/
theorem keystreamClosedForm : Obligations.KeystreamClosedForm := by
  intro n nbytes s _
  obtain ⟨a, b, hstate⟩ := keystream_state n nbytes s
  refine ⟨keystream_bytes n nbytes s, ?words, ?ctr, a, b, _, hstate⟩
  case words =>
    rintro m rfl
    exact words_keystream n m s
  case ctr =>
    rw [hstate]
    exact ctrAfter_toNat nbytes

/-! ### How the keystream calls end (R160, R162, R271) -/

/-- A key or nonce of the wrong length ends GENBITS, whatever LEN is. -/
theorem genbits_invalid {s : State} (hv : inputsValid s = false) :
    exec .genbits s = .next (raise .invalidInputLength (callStart s)) :=
  if_pos hv

/-- With valid inputs, too long a request ends GENBITS. -/
theorem genbits_tooLong {s : State} (hv : inputsValid s = true) (hl : maxKsBytes < ceil8 s.len.toNat) :
    exec .genbits s = .next (raise .counterExhausted (callStart s)) :=
  (if_neg (ne_false_of_eq_true hv)).trans (if_pos hl)

/-- With valid inputs, GENBITS delivers a legal request of `l` bits. -/
theorem genbits_legal {s : State} {l : Nat} (hv : inputsValid s = true) (hlen : s.len.toNat = l)
    (hl : ceil8 l ≤ maxKsBytes) : exec .genbits s = .next (deliver (ceil8 l) (l % 8) (callStart s)) := by
  subst hlen
  exact (if_neg (ne_false_of_eq_true hv)).trans (if_neg (Nat.not_lt.2 hl))

/-- A legal number of words is a legal number of bytes (R157, R162). -/
theorem wordBytes_le {w : Nat} (hw : w ≤ 68719476720) : 4 * w ≤ maxKsBytes := by
  rw [maxKsBytes]
  omega

/-- With valid inputs, GENWORDS delivers a legal request of `w` words. -/
theorem genwords_legal {s : State} {w : Nat} (hv : inputsValid s = true) (hlen : s.len.toNat = w)
    (hw : w ≤ 68719476720) : exec .genwords s = .next (deliver (4 * w) 0 (callStart s)) := by
  subst hlen
  exact (if_neg (ne_false_of_eq_true hv)).trans (if_neg (Nat.not_lt.2 hw))

/-! ### What a keystream call delivers -/

/-- LEN and OUTLEN hold a number below `2^64` as it is (R33, R34). -/
theorem lengthRegister_toNat {l : Nat} (h : l < 18446744073709551616) : (BitVec.ofNat 64 l).toNat = l := by
  rw [BitVec.toNat_ofNat, Nat.mod_eq_of_lt h]

theorem deliver_outLen (nbytes r : Nat) (s : State) : (deliver nbytes r s).outLen = BitVec.ofNat 64 nbytes := by
  obtain ⟨a, b, f, h⟩ := deliver_state nbytes r s
  rw [h]

/-- OUTLEN counts a legal request without loss (R33, R157). -/
theorem deliver_outLen_toNat {nbytes : Nat} (r : Nat) (s : State) (h : nbytes ≤ maxKsBytes) :
    (deliver nbytes r s).outLen.toNat = nbytes := by
  rw [maxKsBytes] at h
  rw [deliver_outLen, lengthRegister_toNat (by omega)]

/-- OUT depends on the key, the nonce and MASK_KEEP alone, beside the request (R161). -/
theorem deliver_out_congr (nbytes r : Nat) {s t : State} (hk : s.keyb = t.keyb) (hn : s.nonb = t.nonb)
    (hm : s.cfg.maskKeep = t.cfg.maskKeep) : (deliver nbytes r s).out = (deliver nbytes r t).out := by
  rw [deliver_out, deliver_out, hn, hm, keystream_bytes_congr _ _ s t hk]

/-- Without a mask, OUT is the keystream as KS gives it. -/
theorem deliver_zero_out (nbytes : Nat) (s : State) : (deliver nbytes 0 s).out = (keystream s.nonb nbytes s).1 := by
  rw [deliver_out, maskFinal_zero]

/-- A delivered call has succeeded: ERR is as CALLSTART cleared it, ESTICKY as it was (R256, R257). -/
theorem callSucceeded_deliver (nbytes r : Nat) (s : State) : CallSucceeded s (deliver nbytes r (callStart s)) := by
  obtain ⟨a, b, f, h⟩ := deliver_state nbytes r (callStart s)
  rw [h]
  exact ⟨rfl, rfl, rfl, rfl, rfl⟩

/-- What a keystream call for `nbytes` bytes leaves beside OUT and OUTLEN: CTR, the status, no results, and all else that
the host can read as it was (R158, R160, R162, R257). -/
def KeystreamCallEffect (nbytes : Nat) (s t : State) : Prop :=
  t.ctr.toNat = (1 + (nbytes + 63) / 64) % 4294967296 ∧ CallSucceeded s t ∧ t.rcnt = 0#32 ∧ CallFrame s t ∧
    SameDrawScope s t ∧ t.suffix = s.suffix ∧ t.swrap = s.swrap ∧ t.idx = s.idx ∧ t.haveReg = s.haveReg ∧
    t.limit = s.limit

theorem keystreamCallEffect_deliver (nbytes r : Nat) (s : State) :
    KeystreamCallEffect nbytes s (deliver nbytes r (callStart s)) := by
  have hok := callSucceeded_deliver nbytes r s
  have hframe := (callFrame_callStart s).trans (callFrame_deliver nbytes r (callStart s))
  obtain ⟨a, b, f, h⟩ := deliver_state nbytes r (callStart s)
  rw [h] at hok hframe ⊢
  exact ⟨ctrAfter_toNat nbytes, hok, rfl, hframe, ⟨rfl, fun _ => rfl, fun _ => rfl⟩, rfl, rfl, rfl, rfl, rfl⟩

/-! ### The obligations about the two calls -/

/-- Settles O27: GENBITS delivers, and OUT is KSBYTE for KSBYTE the closed form, the last byte masked. -/
theorem genbitsDeliversKeystream : Obligations.GenbitsDeliversKeystream := fun s hk hn hl =>
  ⟨_, genbits_legal ((inputsValid_iff s).2 ⟨hk, hn⟩) rfl hl, deliver_out_length _ _ _, deliver_outLen_toNat _ _ hl,
    fun _ hi => deliver_out_getElem? _ _ hi, keystreamCallEffect_deliver _ _ s⟩

/-- Settles O29: GENWORDS delivers without a mask, so OUT read in words is KS read in words. -/
theorem genwordsDeliversWords : Obligations.GenwordsDeliversWords := fun s hk hn hw =>
  ⟨_, genwords_legal ((inputsValid_iff s).2 ⟨hk, hn⟩) rfl hw, deliver_out_length _ _ _,
    deliver_outLen_toNat _ _ (wordBytes_le hw),
    (congrArg wordsOfBytes (deliver_zero_out _ _)).trans (words_keystream _ _ _), keystreamCallEffect_deliver _ _ s⟩

/-- Settles O30: `32 * w` bits are `4 * w` bytes with nothing to mask, which is what GENWORDS delivers for `w` words. -/
theorem genwordsEqualsGenbits : Obligations.GenwordsEqualsGenbits := by
  intro s w hk hn hw
  have hv : inputsValid s = true := (inputsValid_iff s).2 ⟨hk, hn⟩
  have hwords : (BitVec.ofNat 64 w).toNat = w := lengthRegister_toNat (by omega)
  have hbits : (BitVec.ofNat 64 (32 * w)).toNat = 32 * w := lengthRegister_toNat (by omega)
  have hrest : 32 * w % 8 = 0 := by omega
  have hbytes : ceil8 (32 * w) = 4 * w := by rw [ceil8, if_pos hrest]; omega
  have hgen := genbits_legal (s := { s with len := BitVec.ofNat 64 (32 * w) }) hv hbits
    (hbytes.trans_le (wordBytes_le hw))
  rw [hbytes, hrest] at hgen
  exact ⟨_, _, genwords_legal hv hwords hw, hgen, deliver_out_congr _ _ rfl rfl rfl,
    (deliver_outLen _ _ _).trans (deliver_outLen _ _ _).symm⟩

/-- Settles O31: both requests deliver the same closed form, each as far as it goes. -/
theorem shorterRequestIsInitialPart : Obligations.ShorterRequestIsInitialPart := by
  intro s w1 w2 hk hn hle hw2
  have hv : inputsValid s = true := (inputsValid_iff s).2 ⟨hk, hn⟩
  have hlen1 : (BitVec.ofNat 64 w1).toNat = w1 := lengthRegister_toNat (by omega)
  have hlen2 : (BitVec.ofNat 64 w2).toNat = w2 := lengthRegister_toNat (by omega)
  refine ⟨_, _, genwords_legal hv hlen1 (hle.trans hw2), genwords_legal hv hlen2 hw2, ?_⟩
  rw [deliver_zero_out, deliver_zero_out, keystream_bytes, keystream_bytes, ← List.map_take, List.take_range,
    Nat.min_eq_left (by omega)]
  rfl

/-- Settles O32: the inputs decide how GENBITS ends; an error leaves no OUT, and a delivered OUT depends on them alone. -/
theorem genbitsOutputDeterminedByInputs : Obligations.GenbitsOutputDeterminedByInputs := by
  intro s1 s2 hkey hklen hnonce hnlen hlen hmask
  have hvalid : inputsValid s1 = inputsValid s2 := by rw [inputsValid, hklen, hnlen, inputsValid]
  cases hv : inputsValid s2 with
  | false => exact ⟨_, _, genbits_invalid (hvalid.trans hv), genbits_invalid hv, rfl, rfl, rfl, rfl⟩
  | true =>
    rcases Nat.lt_or_ge maxKsBytes (ceil8 s2.len.toNat) with hlong | hlegal
    · exact ⟨_, _, genbits_tooLong (hvalid.trans hv) (by rwa [hlen]), genbits_tooLong hv hlong, rfl, rfl, rfl, rfl⟩
    · obtain ⟨hdone1, -, hcode1, -⟩ := callSucceeded_deliver (ceil8 s2.len.toNat) (s2.len.toNat % 8) s1
      obtain ⟨hdone2, -, hcode2, -⟩ := callSucceeded_deliver (ceil8 s2.len.toNat) (s2.len.toNat % 8) s2
      exact ⟨_, _, genbits_legal (hvalid.trans hv) (congrArg BitVec.toNat hlen) hlegal, genbits_legal hv rfl hlegal,
        deliver_out_congr _ _ hkey hnonce hmask, (deliver_outLen _ _ _).trans (deliver_outLen _ _ _).symm,
        hdone1.trans hdone2.symm, hcode1.trans hcode2.symm⟩

end Sys2Proof.Machine
end

section
/-! The Keystream Pool (spec/42_keystream_pool.md): the working nonce byte by byte, what a refill does and how it fails, and
the stream of words from DRAWINIT on; and the settling of O34, O35, O36, O37, O38 and O43. -/

namespace Sys2Proof.Machine

/-! ### The bytes of a word -/

/-- Byte `k` of a word by division (R11); the truncation to 8 bits reduces it. -/
theorem byteOf_eq_ofNat (w : Word) (k : Nat) : byteOf w k = BitVec.ofNat 8 (w.toNat / 256 ^ k) :=
  BitVec.eq_of_toNat_eq ((byteOf_toNat w k).trans (BitVec.toNat_ofNat _ 8).symm)

theorem byteOf_xor (v w : Word) (k : Nat) : byteOf (v ^^^ w) k = byteOf v k ^^^ byteOf w k :=
  BitVec.extractLsb'_xor

@[simp] theorem byteOf_zero (k : Nat) : byteOf 0#32 k = 0#8 := by simp [byteOf_eq_ofNat]

/-- A word is its four bytes (R12). -/
theorem word_ext {v w : Word} (h : ∀ k, k < 4 → byteOf v k = byteOf w k) : v = w := by
  rw [← le32_byteOf v, ← le32_byteOf w, h 0 (by decide), h 1 (by decide), h 2 (by decide), h 3 (by decide)]

/-- XORing four bytes with those of a word XORs the word they make (R181). -/
theorem le32_xor_byteOf (b0 b1 b2 b3 : Byte) (w : Word) :
    le32 (b0 ^^^ byteOf w 0) (b1 ^^^ byteOf w 1) (b2 ^^^ byteOf w 2) (b3 ^^^ byteOf w 3) = le32 b0 b1 b2 b3 ^^^ w := by
  have hb := bytes32_le32 b0 b1 b2 b3
  simp only [bytes32, List.cons.injEq, and_true] at hb
  obtain ⟨h0, h1, h2, h3⟩ := hb
  rw [← le32_byteOf (le32 b0 b1 b2 b3 ^^^ w)]
  simp only [byteOf_xor, h0, h1, h2, h3]

/-! ### The working nonce (R181, R182) -/

/-- The pool suffix does not meet nonce bytes 0 to 7. -/
theorem workingNonce_getElem_head (o : SuffixOrder) (n : Nonce) (sfx : Word) {i : Nat} (h : i < 8) :
    (workingNonce o n sfx)[i] = n[i] := by
  interval_cases i <;> rfl

/-- Suffix byte `k` meets nonce byte `8 + k`. -/
theorem workingNonce_getElem_tail (o : SuffixOrder) (n : Nonce) (sfx : Word) {k : Nat} (h : k < 4) :
    (workingNonce o n sfx)[8 + k] = n[8 + k] ^^^ suffixByte o sfx k := by
  interval_cases k <;> rfl

@[simp] theorem suffixByte_zero (o : SuffixOrder) (k : Nat) : suffixByte o 0#32 k = 0#8 := by
  cases o <;> exact byteOf_zero _

/-- In either order the four suffix bytes determine the suffix. -/
theorem suffixByte_ext {o : SuffixOrder} {s1 s2 : Word} (h : ∀ k, k < 4 → suffixByte o s1 k = suffixByte o s2 k) :
    s1 = s2 := by
  cases o with
  | little => exact word_ext h
  | big =>
    refine word_ext fun k hk => ?_
    have hb : byteOf s1 (3 - (3 - k)) = byteOf s2 (3 - (3 - k)) := h (3 - k) (by omega)
    rwa [show 3 - (3 - k) = k by omega] at hb

/-- Suffix 0 changes nothing (R181): the first pool of a draw is keystream of the nonce itself. -/
theorem workingNonce_zero (o : SuffixOrder) (n : Nonce) : workingNonce o n 0#32 = n := by
  refine Vector.ext fun i hi => ?_
  rcases Nat.lt_or_ge i 8 with hlt | hge
  · exact workingNonce_getElem_head o n _ hlt
  · obtain ⟨k, rfl⟩ := Nat.exists_eq_add_of_le hge
    rw [workingNonce_getElem_tail o n _ (by omega), suffixByte_zero, BitVec.xor_zero]

/-- Settles O34: eight bytes kept and four XORed with base-256 digits of the suffix; for the little order that is LE32 of the
last four bytes XORed with the suffix. -/
theorem workingNonceBytes : Obligations.WorkingNonceBytes := by
  refine fun o n sfx => ⟨fun i h => workingNonce_getElem_head o n sfx h, fun k h => ?tail, le32_xor_byteOf _ _ _ _ sfx,
    workingNonce_zero o n⟩
  case tail =>
    rw [workingNonce_getElem_tail o n sfx h]
    cases o with
    | little => exact congrArg (n[8 + k] ^^^ ·) (byteOf_eq_ofNat sfx k)
    | big => exact congrArg (n[8 + k] ^^^ ·) (byteOf_eq_ofNat sfx (3 - k))

/-- Settles O35: the XOR with the nonce cancels, byte by byte, and the suffix bytes determine the suffix. -/
theorem workingNoncesDistinct : Obligations.WorkingNoncesDistinct := by
  refine fun o n s1 s2 h => suffixByte_ext (o := o) fun k hk => ?_
  have hbyte : (workingNonce o n s1)[8 + k] = (workingNonce o n s2)[8 + k] := by rw [h]
  rwa [workingNonce_getElem_tail o n s1 hk, workingNonce_getElem_tail o n s2 hk, BitVec.xor_right_inj] at hbyte

/-! ### A refill (R182 to R184) -/

/-- SWRAP after a refill: whether its suffix was the last one (R182). -/
theorem beq_lastSuffix_eq_decide (sfx : Word) : (sfx == 0xFFFFFFFF#32) = decide (sfx.toNat = 4294967295) := by
  rw [beq_eq_decide]
  exact decide_eq_decide.2 BitVec.toNat_inj.symm

/-- HAVE holds POOL_CAP as it is (R8, R29). -/
theorem poolCap_toNat (c : Config) : (BitVec.ofNat 32 c.poolCap).toNat = c.poolCap := by
  have := c.poolCap_le
  rw [BitVec.toNat_ofNat, Nat.mod_eq_of_lt (by omega)]

/-- CTR after the fill of the pool: one block for every sixteen words, and no legal POOL_CAP makes it wrap (R157, R183). -/
theorem ctrAfterFill_toNat (c : Config) :
    (1#32 + BitVec.ofNat 32 (blocksFor (4 * c.poolCap))).toNat = 1 + (c.poolCap + 15) / 16 := by
  have := c.poolCap_le
  rw [ctrAfter_toNat]
  omega

/-- Settles O36: everything a successful refill writes is listed once, and the words it puts into the pool are KSWORDs. -/
theorem refillFillsPool : Obligations.RefillFillsPool := by
  intro s hk hn hw
  obtain ⟨a, b, hr⟩ := refill_done s ((inputsValid_iff s).2 ⟨hk, hn⟩) hw
  refine ⟨_, hr, rfl, BitVec.toNat_add _ _, beq_lastSuffix_eq_decide s.suffix, fun j hj => ?pool, rfl, poolCap_toNat s.cfg,
    ctrAfterFill_toNat s.cfg, ⟨⟨rfl, rfl⟩, ⟨rfl, rfl⟩, ⟨rfl, rfl, rfl⟩, rfl, rfl⟩, ⟨fun _ => rfl, rfl, rfl, rfl⟩,
    ⟨rfl, rfl, rfl, rfl⟩, rfl, rfl, rfl⟩
  case pool => simp [memory_read_fromList, hj]

/-! ### How a refill fails (R184, R273, R280) -/

theorem errorRecorded_raise (e : CallError) (s : State) : ErrorRecorded e (raise e s) :=
  ⟨rfl, rfl, rfl, rfl, rfl, rfl, rfl, rfl⟩

theorem sameCounters_raise (e : CallError) (s : State) : SameCounters s (raise e s) := ⟨rfl, rfl, rfl, rfl, rfl, rfl⟩

theorem refill_invalid {s : State} (hv : inputsValid s = false) :
    refill s = .raised (raise (.poolExhausted .invalidInputLength) s) :=
  if_pos hv

theorem refill_exhausted {s : State} (hv : inputsValid s = true) (hw : s.swrap = true) :
    refill s = .raised (raise (.poolExhausted .suffixExhausted) s) :=
  (if_neg (ne_false_of_eq_true hv)).trans (if_pos hw)

/-- Settles O37: either failure is the raise of its cause from the state of the refill. -/
theorem refillErrors : Obligations.RefillErrors := fun s =>
  ⟨fun h => ⟨_, refill_invalid ((inputsValid_false_iff s).2 h), rfl, rfl, errorRecorded_raise _ s, callFrame_raise _ s,
      sameCounters_raise _ s⟩,
    fun h hw => ⟨_, refill_exhausted ((inputsValid_iff s).2 h) hw, rfl, rfl, errorRecorded_raise _ s, callFrame_raise _ s,
      sameCounters_raise _ s⟩⟩

/-! ### The stream of a draw (R186, R188) -/

/-- The first pool is that of suffix 0 (R188). -/
theorem streamWord_first_pool (c : Config) (k : Key) (n : Nonce) {j : Nat} (h : j < c.poolCap) :
    streamWord c k n j = ksWord k n j := by
  rw [streamWord, Nat.div_eq_of_lt h, Nat.mod_eq_of_lt h, workingNonce_zero]

/-- Any number of NEXTWORDs from DRAWINIT on gives that many words of the stream, and the draw stands after them. -/
theorem takeWords_drawInit {s : State} (hv : inputsValid s = true) {n : Nat} (hn : n ≤ streamLength s.cfg) :
    ∃ t, takeWords n (drawInit s) = .done ((List.range n).map (streamWord s.cfg s.keyb s.nonb)) t ∧ DrawAt n t ∧
      PoolFrame (drawInit s) t := by
  have h := takeWords_at n 0 (drawInit s) (drawAt_init s hv) (by simpa using hn)
  simpa using h

/-- Settles O38: NEXTWORDs give the stream in order and leave the registers where the draw stands; after the whole stream
every suffix has been used. -/
theorem poolDeliversTheStream : Obligations.PoolDeliversTheStream := by
  intro s hk hn
  have hv : inputsValid s = true := (inputsValid_iff s).2 ⟨hk, hn⟩
  refine ⟨fun j => streamWord_first_pool s.cfg s.keyb s.nonb, fun n hle => ?inside, ?ended⟩
  case inside =>
    obtain ⟨t, ht, hat, hf⟩ := takeWords_drawInit hv hle
    refine ⟨t, ht, fun h0 => ?_⟩
    obtain ⟨hidx, hhave, hsuffix, -⟩ := hat.filled h0
    have hc : t.cfg = s.cfg := hf.cfg
    rw [hc] at hidx hhave hsuffix
    exact ⟨hidx, hhave, hsuffix⟩
  case ended =>
    obtain ⟨t, ht, hat, hf⟩ := takeWords_drawInit hv (Nat.le_refl _)
    exact ⟨_, t, _, ht, nextWord_end hat (congrArg streamLength hf.cfg.symm), errorRecorded_raise _ t⟩

/-! ### DRAW without a valid key or nonce (R184, R218) -/

/-- Settles O43: the first refill of the draw raises the error from the state DRAWINIT leaves, and raising keeps the
counters. -/
theorem drawWithoutKeyFails : Obligations.DrawWithoutKeyFails := by
  intro s hcount hmod hcap hbad
  have hdraw := draw_badKey s ((paramsValid_iff s).2 ⟨hcount, hmod, hcap⟩) ((inputsValid_false_iff s).2 hbad)
  have hframe : CallFrame s (drawInit (callStart s)) := (LoopFrame.refl _).callFrame
  refine ⟨_, hdraw, rfl, errorRecorded_raise _ _, hframe.trans (callFrame_raise _ _), ?registers⟩
  case registers => simp

end Sys2Proof.Machine
end

section
/-! The Unbiased Sampler (spec/43_unbiased_sampler.md): LIMIT as a multiple of the modulus, how many words are accepted for each
value, and what SAMPLE returns and leaves unchanged; and the settling of O39, O40 and O41. -/

namespace Sys2Proof.Machine

/-! ### LIMITCALC (R200) -/

theorem limitOf_toNat (m : Word) : (limitOf m).toNat = 4294967295 - 4294967295 % m.toNat := by
  rw [limitOf, BitVec.toNat_ofNat, maxU32]
  exact Nat.mod_eq_of_lt (by omega)

/-- LIMIT as a product (R200). -/
theorem limitOf_toNat_eq_mul (m : Word) : (limitOf m).toNat = m.toNat * (4294967295 / m.toNat) := by
  rw [limitOf_toNat, ← Nat.mul_div_self_eq_mod_sub_self]

theorem dvd_limitOf (m : Word) : m.toNat ∣ (limitOf m).toNat := ⟨_, limitOf_toNat_eq_mul m⟩

/-- No multiple of the modulus lies between LIMIT and MAX_U32: its quotient is at most that of MAX_U32. -/
theorem mul_le_limitOf {m : Word} (hm : 0 < m.toNat) {k : Nat} (h : m.toNat * k ≤ 4294967295) :
    m.toNat * k ≤ (limitOf m).toNat := by
  rw [limitOf_toNat_eq_mul]
  exact Nat.mul_le_mul_left _ ((Nat.le_div_iff_mul_le hm).2 (Nat.mul_comm k _ ▸ h))

theorem toNat_pos_of_ne_zero {m : Word} (h : m ≠ 0#32) : 0 < m.toNat :=
  Nat.pos_of_ne_zero fun h0 => h (BitVec.eq_of_toNat_eq h0)

/-- Settles O39: LIMIT is a product with the largest quotient a word leaves room for. -/
theorem limitIsLargestMultiple : Obligations.LimitIsLargestMultiple :=
  ⟨drawInit_limit, fun m hm => ⟨limitOf_toNat m, limitOf_toNat_eq_mul m, Nat.mod_eq_zero_of_dvd (dvd_limitOf m),
    fun _ => mul_le_limitOf (toNat_pos_of_ne_zero hm)⟩⟩

/-! ### The accepted words (R202, R204) -/

theorem acceptWord_iff (r limit : Word) : acceptWord r limit = true ↔ r.toNat ≤ limit.toNat := decide_eq_true_iff

theorem valueOf_toNat (r m : Word) : (valueOf r m).toNat = r.toNat % m.toNat := by
  have := Nat.mod_le r.toNat m.toNat
  rw [valueOf, BitVec.toNat_ofNat, Nat.mod_eq_of_lt (by omega)]

/-- LIMIT is an accepted word of value 0: the one that value 0 has more than the others (R204). -/
theorem valueOf_limitOf (m : Word) : valueOf (limitOf m) m = 0#32 := by
  rw [valueOf, Nat.mod_eq_zero_of_dvd (dvd_limitOf m)]

/-- The accepted words, as numbers, are an initial part of the words: 0 up to LIMIT. -/
theorem filter_acceptWord_eq_range (limit : Word) :
    ((Finset.range 4294967296).filter fun r => acceptWord (BitVec.ofNat 32 r) limit = true) =
      Finset.range (limit.toNat + 1) := by
  ext r
  have hlimit := limit.isLt
  simp only [Finset.mem_filter, Finset.mem_range, acceptWord_iff, BitVec.toNat_ofNat]
  omega

/-- Up to a multiple of `m`, 0 included, the residue 0 occurs once more than each of the others. -/
theorem count_modEq_mul_succ {m v : Nat} (hv : v < m) (q : Nat) :
    Nat.count (· ≡ v [MOD m]) (m * q + 1) = q + if v = 0 then 1 else 0 := by
  have hm : 0 < m := by omega
  have hlast : m * q ≡ v [MOD m] ↔ v = 0 := by
    rw [Nat.ModEq, Nat.mul_mod_right, Nat.mod_eq_of_lt hv, eq_comm]
  simp only [Nat.count_succ, hlast, Nat.count_modEq_card _ hm, Nat.mul_mod_right, Nat.not_lt_zero, if_false,
    Nat.mul_div_cancel_left _ hm, Nat.add_zero]

/-- The accepted words of a value are the members of its residue class up to LIMIT. -/
theorem card_accepted_of_value {m : Word} {v : Nat} (hv : v < m.toNat) (limit : Word) :
    ((Finset.range 4294967296).filter fun r =>
      acceptWord (BitVec.ofNat 32 r) limit = true ∧ (valueOf (BitVec.ofNat 32 r) m).toNat = v).card =
      Nat.count (· ≡ v [MOD m.toNat]) (limit.toNat + 1) := by
  rw [← Finset.filter_filter, filter_acceptWord_eq_range, Nat.count_eq_card_filter_range]
  refine congrArg Finset.card (Finset.filter_congr fun r hr => ?_)
  have hword : r < 2 ^ 32 := by have := Finset.mem_range.1 hr; omega
  rw [valueOf_toNat, BitVec.toNat_ofNat, Nat.mod_eq_of_lt hword, Nat.ModEq, Nat.mod_eq_of_lt hv]

/-- Settles O40: the accepted words are 0 up to LIMIT, a multiple of the modulus, and a value is a residue class. -/
theorem acceptedPreimageCounts : Obligations.AcceptedPreimageCounts := by
  refine fun m v _ hv => ⟨(acceptWord_iff _ _).2 (Nat.le_refl _), valueOf_limitOf m, ?accepted, ?ofValue⟩
  case accepted => rw [filter_acceptWord_eq_range, Finset.card_range, limitOf_toNat_eq_mul]
  case ofValue => rw [card_accepted_of_value hv, limitOf_toNat_eq_mul, count_modEq_mul_succ hv]

/-! ### SAMPLE (R203) -/

/-- One turn of SAMPLE when NEXTWORD gives a word: that word's value, or the turns that are left. -/
theorem sampleLoop_of_nextWord {s t : State} {r : Word} (h : nextWord s = .done r t) (fuel : Nat) :
    sampleLoop (fuel + 1) s =
      if r.toNat ≤ t.limit.toNat then .done (valueOf r t.modulus) t else sampleLoop fuel t := by
  simp only [sampleLoop, h, Micro.bind, acceptWord_iff]

theorem PoolFrame.callFrame {s t : State} (h : PoolFrame s t) : CallFrame s t :=
  ⟨⟨h.keyb, h.klen⟩, ⟨h.nonb, h.nlen⟩, ⟨h.len, h.count, h.modulus⟩, h.cfg, h.host⟩

theorem PoolFrame.sameResults {s t : State} (h : PoolFrame s t) : SameResults s t :=
  ⟨fun _ => by rw [h.res], h.rcnt, h.out, h.outLen⟩

theorem PoolFrame.sameStatus {s t : State} (h : PoolFrame s t) : SameStatus s t :=
  ⟨h.done, h.errCode, h.errSub, h.esticky⟩

/-- Settles O41: the first half is one turn of the loop; what SAMPLE returns is some word's value, and it writes only what
NEXTWORD writes. -/
theorem sampleRejectsAboveLimit : Obligations.SampleRejectsAboveLimit := by
  refine ⟨fun fuel s t r h => sampleLoop_of_nextWord h fuel, fun s t v hm h => ?returned⟩
  case returned =>
    obtain ⟨hframe, r, rfl⟩ := sampleLoop_frame h
    exact ⟨valueOf_lt r s.modulus (toNat_pos_of_ne_zero hm), hframe.callFrame, hframe.sameResults, hframe.sameStatus,
      hframe.seen, hframe.limit⟩

end Sys2Proof.Machine
end

section
/-! The Unique Draw Engine (spec/44_unique_draw.md): where the engine registers stand when a draw ends, the two ways a draw
with good inputs ends and how its stream tells them apart; and the settling of O42 and of O44 to O50. -/

namespace Sys2Proof.Machine

/-! ### The stream of a draw and where it reaches COUNT (R220) -/

/-- The distinct candidates among the first `n` words of the stream that a draw from this state has (R220). -/
def State.drawn (s : State) (n : Nat) : List Word := drawnAfter s.cfg s.keyb s.nonb s.modulus n

theorem streamLength_ne_zero (c : Config) : streamLength c ≠ 0 :=
  Nat.mul_ne_zero (by decide) (Nat.ne_of_gt c.poolCap_pos)

theorem State.drawn_mono (s : State) {a b : Nat} (h : a ≤ b) : (s.drawn a).length ≤ (s.drawn b).length :=
  drawnAfter_mono s.cfg s.keyb s.nonb s.modulus h

theorem State.drawn_nodup (s : State) (n : Nat) : (s.drawn n).Nodup := firstOccurrences_nodup _

/-- Word `n - 1` of the stream brings the number of distinct candidates to COUNT (R220). -/
structure CountReachedAt (s : State) (n : Nat) : Prop where
  pos : 0 < n
  bound : n ≤ streamLength s.cfg
  reached : (s.drawn n).length = s.count.toNat
  before : (s.drawn (n - 1)).length < s.count.toNat

/-- The whole stream has fewer than COUNT distinct candidates (R220). -/
def StreamTooShort (s : State) : Prop := (s.drawn (streamLength s.cfg)).length < s.count.toNat

/-- A number of words that gives fewer distinct candidates than COUNT is below the one that reaches it. -/
theorem CountReachedAt.lt_of_length_lt {s : State} {n k : Nat} (h : CountReachedAt s n)
    (hk : (s.drawn k).length < s.count.toNat) : k < n := by
  rw [← h.reached] at hk
  exact Nat.lt_of_not_le fun hle => Nat.not_le_of_lt hk (s.drawn_mono hle)

/-- COUNT is reached at one word of the stream only. -/
theorem CountReachedAt.unique {s : State} {n k : Nat} (hn : CountReachedAt s n) (hk : CountReachedAt s k) : n = k := by
  have h1 := hn.lt_of_length_lt hk.before
  have h2 := hk.lt_of_length_lt hn.before
  omega

theorem CountReachedAt.count_le {s : State} {n : Nat} (h : CountReachedAt s n) :
    s.count.toNat ≤ (s.drawn (streamLength s.cfg)).length :=
  h.reached ▸ s.drawn_mono h.bound

/-! ### What a draw leaves -/

/-- The engine registers after a draw that took `n` words, from the state `s` before it (R188, R200, R220), and its frame. -/
structure EnginesAfter (n : Nat) (s t : State) : Prop where
  frame : CallFrame s t
  limit : t.limit = limitOf s.modulus
  idx : t.idx.toNat = (n - 1) % s.cfg.poolCap + 1
  haveReg : t.haveReg.toNat = s.cfg.poolCap
  suffix : t.suffix.toNat = ((n - 1) / s.cfg.poolCap + 1) % 4294967296
  swrap : t.swrap = decide ((n - 1) / s.cfg.poolCap + 1 = 4294967296)
  ctr : t.ctr.toNat = 1 + (s.cfg.poolCap + 15) / 16

/-- A draw that ends with its results after `n` words (R218, R220). -/
structure DrawSucceeded (n : Nat) (s t : State) : Prop extends EnginesAfter n s t where
  status : CallSucceeded s t
  rcnt : t.rcnt = s.count
  res : ∀ i, Memory.read t.res i = (s.drawn n)[i]?
  out : t.out = []
  outLen : t.outLen = 0#64

/-- The loop of DRAW leaves the engine registers where it stands in the stream, and LIMIT as DRAWINIT set it. -/
theorem DrawAt.enginesAfter {n : Nat} {s t : State} (hat : DrawAt n t) (hn : n ≠ 0)
    (hf : LoopFrame (drawInit (callStart s)) t) : EnginesAfter n s t := by
  obtain ⟨hidx, hhave, hsuffix, hswrap, hctr, -⟩ := hat.filled hn
  have hc : t.cfg = s.cfg := hf.cfg
  rw [hc] at hidx hhave hsuffix hswrap hctr
  exact ⟨hf.callFrame, hf.limit, hidx, hhave, hsuffix, hswrap, hctr ▸ ctrAfterFill_toNat s.cfg⟩

/-- The end of a successful draw writes no engine register. -/
theorem EnginesAfter.drawEnd {n : Nat} {s t : State} (h : EnginesAfter n s t) :
    EnginesAfter n s (callOk (forgetDrawScope t)) :=
  ⟨h.frame.trans (callFrame_drawEnd t), h.limit, h.idx, h.haveReg, h.suffix, h.swrap, h.ctr⟩

/-- A raised error keeps the engine registers (R280). -/
theorem EnginesAfter.raise {n : Nat} {s t : State} (h : EnginesAfter n s t) (e : CallError) :
    EnginesAfter n s (raise e t) :=
  ⟨h.frame.trans (callFrame_raise e t), h.limit, h.idx, h.haveReg, h.suffix, h.swrap, h.ctr⟩

/-- After the whole stream the cursor is at the end of the last pool and the suffix has wrapped (R182, R186). -/
theorem EnginesAfter.of_wholeStream {s t : State} (h : EnginesAfter (streamLength s.cfg) s t) :
    t.suffix = 0#32 ∧ t.swrap = true ∧ t.idx.toNat = s.cfg.poolCap := by
  have hpools : streamLength s.cfg / s.cfg.poolCap = 4294967296 := Nat.mul_div_cancel _ s.cfg.poolCap_pos
  obtain ⟨hidx, hdiv⟩ := (pred_div_mod s.cfg.poolCap_pos (streamLength_ne_zero s.cfg)).1 (Nat.mul_mod_left _ _)
  rw [hpools] at hdiv
  refine ⟨BitVec.eq_of_toNat_eq ?suffix, ?swrap, h.idx.trans hidx⟩
  case suffix => rw [h.suffix, hdiv]; rfl
  case swrap => rw [h.swrap, hdiv]; rfl

/-! ### How a draw ends -/

/-- What the loop of DRAW hands over when it ends with COUNT values is a successful draw's end. -/
theorem drawSucceeded_of_loop {n : Nat} {s t : State} (hn : CountReachedAt s n) (hat : DrawAt n t)
    (hf : LoopFrame (drawInit (callStart s)) t) (hcol : Collected (s.drawn n) t) :
    DrawSucceeded n s (callOk (forgetDrawScope t)) where
  toEnginesAfter := (hat.enginesAfter (Nat.ne_of_gt hn.pos) hf).drawEnd
  status := ⟨rfl, rfl, hf.errCode, hf.errSub, hf.esticky⟩
  rcnt := BitVec.eq_of_toNat_eq (hcol.rcnt.trans hn.reached)
  res i := (congrArg (Memory.read · i) hcol.res).trans (memory_read_fromList _ i)
  out := hf.out
  outLen := hf.outLen

/-- DRAW with good parameters and lengths either reaches COUNT or uses up its stream (R218). -/
theorem draw_ends {s : State} (hv : inputsValid s = true) (hp : paramsValid s = true) :
    (∃ n t, CountReachedAt s n ∧ exec .draw s = .next t ∧ DrawSucceeded n s t) ∨
    (StreamTooShort s ∧ ∃ u, exec .draw s = .next (raise (.poolExhausted .suffixExhausted) u) ∧
      EnginesAfter (streamLength s.cfg) s u) := by
  rcases draw_valid s hv hp with ⟨n, u, hle, hex, hat, hf, hcol, hlen, hpos, hbefore⟩ | ⟨u, hex, hat, hf, hlt⟩
  · have hn : CountReachedAt s n := ⟨hpos, hle, hlen, hbefore⟩
    exact .inl ⟨n, _, hn, hex, drawSucceeded_of_loop hn hat hf hcol⟩
  · exact .inr ⟨hlt, u, hex, hat.enginesAfter (streamLength_ne_zero s.cfg) hf⟩

/-- A draw whose stream reaches COUNT succeeds, at that word. -/
theorem draw_of_countReachedAt {s : State} {n : Nat} (hv : inputsValid s = true) (hp : paramsValid s = true)
    (hn : CountReachedAt s n) : ∃ t, exec .draw s = .next t ∧ DrawSucceeded n s t := by
  rcases draw_ends hv hp with ⟨k, t, hk, hex, ht⟩ | ⟨hshort, -⟩
  · exact ⟨t, hex, hk.unique hn ▸ ht⟩
  · exact absurd hn.count_le (Nat.not_le_of_lt hshort)

/-- A draw whose stream is too short raises PoolExhausted with SUB = 6 (R273). -/
theorem draw_of_streamTooShort {s : State} (hv : inputsValid s = true) (hp : paramsValid s = true)
    (hshort : StreamTooShort s) : ∃ u, exec .draw s = .next (raise (.poolExhausted .suffixExhausted) u) := by
  rcases draw_ends hv hp with ⟨n, -, hn, -⟩ | ⟨-, h⟩
  · exact absurd hn.count_le (Nat.not_le_of_lt hshort)
  · obtain ⟨u, hex, -⟩ := h
    exact ⟨u, hex⟩

/-- A draw that ends with DONE = 1 had good parameters and reached COUNT: every other end is a raised error. -/
theorem draw_of_done {s t : State} (h : exec .draw s = .next t) (hd : t.done = true) :
    paramsValid s = true ∧ ∃ n, CountReachedAt s n ∧ DrawSucceeded n s t := by
  have hraised : ∀ e u, exec .draw s ≠ .next (raise e u) := fun e u hr => by
    cases hr.symm.trans h
    cases hd
  cases hp : paramsValid s with
  | false => exact absurd (draw_badParams s hp) (hraised _ _)
  | true =>
    cases hv : inputsValid s with
    | false => exact absurd (draw_badKey s hp hv) (hraised _ _)
    | true =>
      rcases draw_ends hv hp with ⟨n, u, hn, hex, hu⟩ | ⟨-, u, hex, -⟩
      · cases hex.symm.trans h
        exact ⟨rfl, n, hn, hu⟩
      · exact absurd hex (hraised _ _)

/-- Settles O42: PARAMCHECK fails before anything but CALLSTART has run, and neither CALLSTART nor the raise writes an
engine register. -/
theorem drawParameterErrors : Obligations.DrawParameterErrors := by
  intro s hbad
  have hp : paramsValid s = false := by
    rw [← Bool.not_eq_true, paramsValid_iff]
    omega
  exact ⟨_, draw_badParams s hp, errorRecorded_raise _ _, (callFrame_callStart s).trans (callFrame_raise _ _),
    sameCounters_raise _ (callStart s)⟩

/-- Settles O44: the hypotheses say that COUNT is reached at word `n - 1`. -/
theorem drawClosedForm : Obligations.DrawClosedForm := by
  intro s n hk hn hcount hmod hcap hpos hle hlen hbefore
  obtain ⟨t, hex, ht⟩ := draw_of_countReachedAt ((inputsValid_iff s).2 ⟨hk, hn⟩)
    ((paramsValid_iff s).2 ⟨hcount, hmod, hcap⟩) ⟨hpos, hle, hlen, hbefore⟩
  exact ⟨t, hex, ht.status, ht.rcnt, ht.res, ht.out, ht.outLen, ht.limit, ht.idx, ht.haveReg, ht.suffix, ht.swrap, ht.ctr,
    ht.frame⟩

/-- Settles O45: a stream that reaches COUNT has COUNT distinct candidates, and the other end is the stream used up. -/
theorem drawOutcomeByStream : Obligations.DrawOutcomeByStream := by
  intro s hk hn hcount hmod hcap
  rcases draw_ends ((inputsValid_iff s).2 ⟨hk, hn⟩) ((paramsValid_iff s).2 ⟨hcount, hmod, hcap⟩) with
    ⟨n, t, hn, hex, ht⟩ | ⟨hshort, u, hex, hu⟩
  · exact ⟨t, hex, ht.frame, ht.limit, ht.haveReg, ht.ctr, (if_pos hn.count_le).mpr ⟨ht.status, ht.rcnt⟩⟩
  · have ht := hu.raise (.poolExhausted .suffixExhausted)
    exact ⟨_, hex, ht.frame, ht.limit, ht.haveReg, ht.ctr,
      (if_neg (Nat.not_le_of_lt hshort)).mpr ⟨rfl, errorRecorded_raise _ u, ht.of_wholeStream⟩⟩

/-! ### The results of a successful draw (R219) -/

/-- After PARAMCHECK every drawn value is below MODULUS (R219). -/
theorem State.drawn_lt {s : State} (hp : paramsValid s = true) (n : Nat) : ∀ v ∈ s.drawn n, v.toNat < s.modulus.toNat := by
  obtain ⟨hcount, hmod, -⟩ := (paramsValid_iff s).1 hp
  exact drawnAfter_lt s.cfg s.keyb s.nonb s.modulus (by omega) n

/-- As many distinct words as there are numbers below their count, all below it, are these numbers in some order. -/
theorem perm_range_of_nodup_lt {vs : List Word} (hnodup : vs.Nodup) (hlt : ∀ v ∈ vs, v.toNat < vs.length) :
    (vs.map BitVec.toNat).Perm (List.range vs.length) := by
  have hdistinct : (vs.map BitVec.toNat).Nodup := hnodup.map fun _ _ => BitVec.eq_of_toNat_eq
  have hsub : vs.map BitVec.toNat ⊆ List.range vs.length := by
    intro x hx
    obtain ⟨v, hv, rfl⟩ := List.mem_map.1 hx
    exact List.mem_range.2 (hlt v hv)
  exact (hdistinct.subperm hsub).perm_of_length_le (by simp)

/-- Settles O46: RES is what has been drawn, which is distinct and in range. -/
theorem drawResultsDistinctInRange : Obligations.DrawResultsDistinctInRange := by
  intro s t h hd
  obtain ⟨hp, n, hn, ht⟩ := draw_of_done h hd
  exact ⟨ht.rcnt, s.drawn n, ht.res, hn.reached, s.drawn_nodup n, State.drawn_lt hp n⟩

/-- Settles O47: COUNT = MODULUS distinct values below MODULUS are all of them. -/
theorem drawAllIsPermutation : Obligations.DrawAllIsPermutation := by
  intro s t h hd hall
  obtain ⟨hp, n, hn, ht⟩ := draw_of_done h hd
  have hlen : (s.drawn n).length = s.modulus.toNat := hall ▸ hn.reached
  refine ⟨s.drawn n, ht.res, ?_⟩
  rw [← hlen]
  exact perm_range_of_nodup_lt (s.drawn_nodup n) fun v hv => hlen ▸ State.drawn_lt hp n v hv

/-- With MODULUS = 1 every word is accepted (R200, R202). -/
theorem acceptWord_limitOf_one (w : Word) : acceptWord w (limitOf 1#32) = true := by
  have hlimit : (limitOf 1#32).toNat = 4294967295 := limitOf_toNat 1#32
  rw [acceptWord_iff, hlimit]
  omega

/-- With MODULUS = 1 the only value is 0 (R203). -/
theorem valueOf_one (w : Word) : valueOf w 1#32 = 0#32 :=
  BitVec.eq_of_toNat_eq ((valueOf_toNat w 1#32).trans (Nat.mod_one _))

/-- With MODULUS = 1 the first word of the stream gives 0, whatever it is. -/
theorem State.drawn_one {s : State} (hm : s.modulus = 1#32) : s.drawn 1 = [0#32] := by
  simp [State.drawn, drawnAfter, candidates, firstOccurrences, hm, acceptWord_limitOf_one, valueOf_one]

/-- Settles O48: COUNT = 1 is reached at word 0, so this is the closed form at one word. -/
theorem drawOneOfOne : Obligations.DrawOneOfOne := by
  intro s hk hn hc hm
  have hcap := s.cfg.seenCap_pos
  have hpool := s.cfg.poolCap_pos
  have hp : paramsValid s = true := (paramsValid_iff s).2 (by simp [hc, hm, hcap])
  have hreached : CountReachedAt s 1 :=
    ⟨Nat.one_pos, by simp only [streamLength]; omega, by simp [State.drawn_one hm, hc],
      by simp [State.drawn, drawnAfter, candidates, firstOccurrences, hc]⟩
  obtain ⟨t, hex, ht⟩ := draw_of_countReachedAt ((inputsValid_iff s).2 ⟨hk, hn⟩) hp hreached
  have hres := ht.res
  rw [State.drawn_one hm] at hres
  refine ⟨t, hex, ht.status, ht.rcnt.trans hc, hres 0, fun i hi => ?past, ?limit, BitVec.eq_of_toNat_eq ?idx,
    BitVec.eq_of_toNat_eq ?suffix, ht.haveReg, ht.frame⟩
  case past => rw [hres]; exact List.getElem?_eq_none hi
  case limit => rw [ht.limit, hm]; exact limitOf_toNat 1#32
  case idx => rw [ht.idx]; simp
  case suffix => rw [ht.suffix]; simp

/-! ### What a draw depends on (R219 (e) to (h)) -/

/-- What the statement of R219 (e) compares of two final states: the outcome and the result. -/
def SameDrawOutcome (s t : State) : Prop :=
  s.done = t.done ∧ s.errCode = t.errCode ∧ s.errSub = t.errSub ∧ s.rcnt = t.rcnt ∧
    ∀ i, Memory.read s.res i = Memory.read t.res i

/-- An error leaves the same outcome from every state: its code and no result. -/
theorem sameDrawOutcome_raise (e : CallError) (s t : State) : SameDrawOutcome (raise e s) (raise e t) :=
  ⟨rfl, rfl, rfl, rfl, fun _ => rfl⟩

/-- Two draws of as many values from one stream leave the same outcome. -/
theorem DrawSucceeded.sameDrawOutcome {n : Nat} {s1 s2 t1 t2 : State} (h1 : DrawSucceeded n s1 t1)
    (h2 : DrawSucceeded n s2 t2) (hc : s1.count = s2.count) (hd : s1.drawn n = s2.drawn n) : SameDrawOutcome t1 t2 := by
  obtain ⟨hdone1, -, hcode1, hsub1, -⟩ := h1.status
  obtain ⟨hdone2, -, hcode2, hsub2, -⟩ := h2.status
  exact ⟨hdone1.trans hdone2.symm, hcode1.trans hcode2.symm, hsub1.trans hsub2.symm,
    h1.rcnt.trans (hc.trans h2.rcnt.symm), fun i => by rw [h1.res, h2.res, hd]⟩

/-- The inputs of R219 (e) agree, and so does PARAMCHECK's answer on MODULUS against SEEN_CAP (R215). -/
structure SameDrawInputs (s t : State) : Prop where
  keyb : s.keyb = t.keyb
  klen : s.klen = t.klen
  nonb : s.nonb = t.nonb
  nlen : s.nlen = t.nlen
  count : s.count = t.count
  modulus : s.modulus = t.modulus
  poolCap : s.cfg.poolCap = t.cfg.poolCap
  suffixOrder : s.cfg.suffixOrder = t.cfg.suffixOrder
  fits : s.modulus.toNat ≤ s.cfg.seenCap ↔ t.modulus.toNat ≤ t.cfg.seenCap

section
variable {s t : State} (h : SameDrawInputs s t)
include h

theorem SameDrawInputs.inputsValid : inputsValid s = inputsValid t := by
  rw [Machine.inputsValid, Machine.inputsValid, h.klen, h.nlen]

theorem SameDrawInputs.paramsValid : paramsValid s = paramsValid t := by
  rw [Bool.eq_iff_iff, paramsValid_iff, paramsValid_iff, h.fits, h.count, h.modulus]

theorem SameDrawInputs.streamLength : streamLength s.cfg = streamLength t.cfg := by
  rw [Machine.streamLength, Machine.streamLength, h.poolCap]

theorem SameDrawInputs.drawn (n : Nat) : s.drawn n = t.drawn n := by
  rw [State.drawn, State.drawn, drawnAfter_congr h.poolCap h.suffixOrder, h.keyb, h.nonb, h.modulus]

theorem SameDrawInputs.countReachedAt {n : Nat} (hn : CountReachedAt s n) : CountReachedAt t n where
  pos := hn.pos
  bound := h.streamLength ▸ hn.bound
  reached := by rw [← h.drawn, ← h.count]; exact hn.reached
  before := by rw [← h.drawn, ← h.count]; exact hn.before

theorem SameDrawInputs.streamTooShort (hs : StreamTooShort s) : StreamTooShort t := by
  rw [StreamTooShort, ← h.streamLength, ← h.drawn, ← h.count]
  exact hs

/-- R219 (e): the inputs decide which of its ends a draw takes, and what that end leaves. -/
theorem SameDrawInputs.exec_draw :
    ∃ t1 t2, exec .draw s = .next t1 ∧ exec .draw t = .next t2 ∧ SameDrawOutcome t1 t2 := by
  cases hp : Machine.paramsValid s with
  | false =>
    exact ⟨_, _, draw_badParams s hp, draw_badParams t (h.paramsValid ▸ hp), sameDrawOutcome_raise _ _ _⟩
  | true =>
    have hp' := h.paramsValid ▸ hp
    cases hv : Machine.inputsValid s with
    | false =>
      exact ⟨_, _, draw_badKey s hp hv, draw_badKey t hp' (h.inputsValid ▸ hv), sameDrawOutcome_raise _ _ _⟩
    | true =>
      have hv' := h.inputsValid ▸ hv
      rcases draw_ends hv hp with ⟨n, t1, hn, hex1, ht1⟩ | ⟨hshort, u1, hex1, -⟩
      · obtain ⟨t2, hex2, ht2⟩ := draw_of_countReachedAt hv' hp' (h.countReachedAt hn)
        exact ⟨t1, t2, hex1, hex2, ht1.sameDrawOutcome ht2 h.count (h.drawn n)⟩
      · obtain ⟨u2, hex2⟩ := draw_of_streamTooShort hv' hp' (h.streamTooShort hshort)
        exact ⟨_, _, hex1, hex2, sameDrawOutcome_raise _ u1 u2⟩

end

/-- Settles O49: the stream is a function of the inputs, and it tells the ends of a draw apart. -/
theorem drawDeterminedByInputs : Obligations.DrawDeterminedByInputs :=
  fun _ _ hkeyb hklen hnonb hnlen hcount hmodulus hpool horder hfits =>
    SameDrawInputs.exec_draw ⟨hkeyb, hklen, hnonb, hnlen, hcount, hmodulus, hpool, horder, hfits⟩

/-- Settles O50: the smaller COUNT is reached no later in the stream, and what has been drawn there begins what is drawn
later. -/
theorem drawSmallerIsInitialPart : Obligations.DrawSmallerIsInitialPart := by
  intro s t1 t2 c1 c2 hc h1 hd1 h2 hd2 i hi
  obtain ⟨-, n1, hn1, ht1⟩ := draw_of_done h1 hd1
  obtain ⟨-, n2, hn2, ht2⟩ := draw_of_done h2 hd2
  have hlen1 : (s.drawn n1).length = c1.toNat := hn1.reached
  have hbefore : (s.drawn (n1 - 1)).length < c2.toNat := Nat.lt_of_lt_of_le hn1.before hc
  have hle : n1 ≤ n2 := Nat.le_of_pred_lt (hn2.lt_of_length_lt hbefore)
  obtain ⟨later, hlater⟩ : ∃ x, s.drawn n2 = s.drawn n1 ++ x := drawnAfter_extends s.cfg s.keyb s.nonb s.modulus hle
  calc Memory.read t1.res i
      = (s.drawn n1)[i]? := ht1.res i
    _ = (s.drawn n1 ++ later)[i]? := (List.getElem?_append_left (hlen1 ▸ hi)).symm
    _ = Memory.read t2.res i := by rw [← hlater]; exact (ht2.res i).symm

end Sys2Proof.Machine
end

section
/-! Every command answers a next state (R60, R226): a setup command and a reset compute nothing that could stop, and each end
of a call is a next state; and the settling of O51. -/

namespace Sys2Proof.Machine

/-- A call answers a next state, whichever way it ends. -/
theorem exec_call_completes {i : Instr} (hc : isCallCommand i = true) (s : State) : ∃ t, exec i s = .next t := by
  cases i with
  | genbits => rcases genbits_outcomes s with ⟨e, he, -⟩ | ⟨-, -, he⟩ <;> exact ⟨_, he⟩
  | genwords => rcases genwords_outcomes s with ⟨e, he, -⟩ | ⟨-, -, he⟩ <;> exact ⟨_, he⟩
  | draw =>
    rcases draw_outcomes s with ⟨-, he⟩ | ⟨-, -, he⟩ | ⟨-, -, _, _, -, he, -⟩ | ⟨-, -, _, he, -⟩ <;> exact ⟨_, he⟩
  | nop | kclr | kpush _ | nclr | npush _ | lenlo _ | lenhi _ | setcnt _ | setmod _ | srst => cases hc

/-- Settles O51, by the classes of the commands: SRST, a call, a setup command. -/
theorem everyCommandCompletes : Obligations.EveryCommandCompletes := by
  intro i s
  by_cases hr : i = .srst
  · exact ⟨resetCore s, by rw [hr]; rfl⟩
  cases hc : isCallCommand i with
  | true => exact exec_call_completes hc s
  | false =>
    obtain ⟨k, n, he, -⟩ := exec_setup hc hr s
    exact ⟨_, he⟩

end Sys2Proof.Machine
end

section
/-! The setup commands one by one (spec/45_host_commands.md sections 1 and 2): what each stores, and that everything R250
lists stays as it was; and the settling of O8, O9, O10, O11, O12, O13, O14 and O53. -/

namespace Sys2Proof.Machine

/-! ### What no setup command writes (R250) -/

/-- R250 (a) and (b) name no input of the host, so other inputs leave all of it as it was. -/
theorem setupFrame_withInputs (s : State) (k : Key) (n : Nonce) (x : ReadableInputs) :
    SetupFrame s (s.withInputs k n x) :=
  ⟨⟨rfl, rfl, rfl, rfl, rfl, rfl⟩, ⟨rfl, fun _ => rfl, fun _ => rfl⟩, ⟨rfl, rfl⟩, ⟨fun _ => rfl, rfl, rfl, rfl⟩,
    ⟨rfl, rfl, rfl, rfl⟩, ⟨rfl, rfl⟩, rfl⟩

/-- Settles O53: a setup command leaves the state with other inputs, and nothing more. -/
theorem setupCommandsKeepResults : Obligations.SetupCommandsKeepResults := by
  intro i s hc hr
  obtain ⟨k, n, he, -⟩ := exec_setup hc hr s
  exact ⟨_, he, setupFrame_withInputs s k n _⟩

/-- Settles O8: NOP's word and its neighbour are run through the encoder and the decoder, and NOP writes BUSY only. -/
theorem nopChangesNothing : Obligations.NopChangesNothing := ⟨rfl, rfl, fun _ => rfl⟩

/-! ### The key and the nonce (R241 to R244) -/

/-- The state with another key buffer and KLEN, and BUSY = 0: the key commands give no other. -/
def State.withKey (s : State) (k : Key) (l : BitVec 6) : State :=
  s.withInputs k s.nonb { s.readableInputs with klen := l }

/-- The state with another nonce buffer and NLEN, and BUSY = 0: the nonce commands give no other. -/
def State.withNonce (s : State) (n : Nonce) (l : BitVec 4) : State :=
  s.withInputs s.keyb n { s.readableInputs with nlen := l }

theorem frame_withKey (s : State) (k : Key) (l : BitVec 6) :
    SameNonce s (s.withKey k l) ∧ SameArguments s (s.withKey k l) ∧ SetupFrame s (s.withKey k l) :=
  ⟨⟨rfl, rfl⟩, ⟨rfl, rfl, rfl⟩, setupFrame_withInputs s k s.nonb _⟩

theorem frame_withNonce (s : State) (n : Nonce) (l : BitVec 4) :
    SameKey s (s.withNonce n l) ∧ SameArguments s (s.withNonce n l) ∧ SetupFrame s (s.withNonce n l) :=
  ⟨⟨rfl, rfl⟩, ⟨rfl, rfl, rfl⟩, setupFrame_withInputs s s.keyb n _⟩

/-- KPUSH writes the key buffer and KLEN only, whichever of its three cases applies. -/
theorem complete_pushKeyByte (b : Byte) (s : State) :
    ∃ k, complete (pushKeyByte b s) = s.withKey k (nextKlen s.klen) := by
  obtain ⟨k, hk⟩ := pushKeyByte_state b s
  exact ⟨k, congrArg complete hk⟩

/-- NPUSH writes the nonce buffer and NLEN only, whichever of its three cases applies. -/
theorem complete_pushNonceByte (b : Byte) (s : State) :
    ∃ n, complete (pushNonceByte b s) = s.withNonce n (nextNlen s.nlen) := by
  obtain ⟨n, hn⟩ := pushNonceByte_state b s
  exact ⟨n, congrArg complete hn⟩

theorem kvalid_iff (s : State) : s.kvalid = true ↔ s.klen.toNat = 32 := by rw [kvalid_eq_decide, decide_eq_true_iff]

theorem nvalid_iff (s : State) : s.nvalid = true ↔ s.nlen.toNat = 12 := by rw [nvalid_eq_decide, decide_eq_true_iff]

/-- Settles O9: both clear commands write zeros into their buffer and its length register. -/
theorem clearCommandsZeroBuffers : Obligations.ClearCommandsZeroBuffers := by
  refine ⟨rfl, rfl, fun s => ⟨?kclr, ?nclr⟩⟩
  case kclr =>
    exact ⟨s.withKey (Vector.replicate 32 0#8) 0#6, rfl, fun _ hi => Vector.getElem_replicate hi, rfl, rfl,
      frame_withKey s _ _⟩
  case nclr =>
    exact ⟨s.withNonce (Vector.replicate 12 0#8) 0#4, rfl, fun _ hi => Vector.getElem_replicate hi, rfl, rfl,
      frame_withNonce s _ _⟩

/-- Settles O10, by the three cases of KPUSH. -/
theorem kpushStoresOrSaturates : Obligations.KpushStoresOrSaturates := by
  intro s b
  refine ⟨_, rfl, fun hlt => ?store, fun heq => ?drop, fun hgt => ?full, kvalid_iff _, ?frame⟩
  case store =>
    rw [pushKeyByte_store b hlt]
    have hlen : (s.klen + 1#6).toNat = s.klen.toNat + 1 := by bv_omega
    exact ⟨hlen, fun _ hi => (Vector.getElem_set hlt hi).trans (if_congr eq_comm rfl rfl)⟩
  case drop =>
    rw [pushKeyByte_drop b (BitVec.eq_of_toNat_eq heq)]
    exact ⟨rfl, rfl⟩
  case full =>
    rw [pushKeyByte_full b hgt]
    exact ⟨rfl, rfl⟩
  case frame =>
    obtain ⟨k, hk⟩ := complete_pushKeyByte b s
    rw [hk]
    exact frame_withKey s k _

/-- Settles O11, by the three cases of NPUSH. -/
theorem npushStoresOrSaturates : Obligations.NpushStoresOrSaturates := by
  intro s b
  refine ⟨_, rfl, fun hlt => ?store, fun heq => ?drop, fun hgt => ?full, nvalid_iff _, ?frame⟩
  case store =>
    rw [pushNonceByte_store b hlt]
    have hlen : (s.nlen + 1#4).toNat = s.nlen.toNat + 1 := by bv_omega
    exact ⟨hlen, fun _ hi => (Vector.getElem_set hlt hi).trans (if_congr eq_comm rfl rfl)⟩
  case drop =>
    rw [pushNonceByte_drop b (BitVec.eq_of_toNat_eq heq)]
    exact ⟨rfl, rfl⟩
  case full =>
    rw [pushNonceByte_full b hgt]
    exact ⟨rfl, rfl⟩
  case frame =>
    obtain ⟨n, hn⟩ := complete_pushNonceByte b s
    rw [hn]
    exact frame_withNonce s n _

/-- What one command for each byte of a list keeps, the run of them keeps. -/
theorem runInstrs_map_keeps {f : Byte → Instr} {P : State → Prop}
    (step : ∀ {s} b, P s → ∃ t, exec (f b) s = .next t ∧ P t) {bs : List Byte} {s t : State}
    (hs : P s) (hr : runInstrs (bs.map f) s = some t) : P t := by
  obtain ⟨u, hu, hP⟩ := runInstrs_map (P := fun _ => P) step bs (ps := []) hs
  cases hu.symm.trans hr
  exact hP

/-- Loading a key writes the key buffer and KLEN only. -/
theorem runInstrs_kclr_kpush_withKey {bs : List Byte} {s t : State}
    (h : runInstrs (.kclr :: bs.map .kpush) s = some t) : ∃ k l, t = s.withKey k l := by
  refine runInstrs_map_keeps (P := fun u => ∃ k l, u = s.withKey k l) ?step ⟨_, _, rfl⟩ h
  rintro _ b ⟨k, l, rfl⟩
  obtain ⟨k', hk⟩ := complete_pushKeyByte b (s.withKey k l)
  exact ⟨_, rfl, k', nextKlen l, hk⟩

/-- Loading a nonce writes the nonce buffer and NLEN only. -/
theorem runInstrs_nclr_npush_withNonce {bs : List Byte} {s t : State}
    (h : runInstrs (.nclr :: bs.map .npush) s = some t) : ∃ n l, t = s.withNonce n l := by
  refine runInstrs_map_keeps (P := fun u => ∃ n l, u = s.withNonce n l) ?step ⟨_, _, rfl⟩ h
  rintro _ b ⟨n, l, rfl⟩
  obtain ⟨n', hn⟩ := complete_pushNonceByte b (s.withNonce n l)
  exact ⟨_, rfl, n', nextNlen l, hn⟩

/-- Settles O14: the buffers hold what was pushed since the clear, and the loads write nothing else. -/
theorem buffersHoldThePushedBytes : Obligations.BuffersHoldThePushedBytes := by
  intro s bs
  constructor
  · obtain ⟨t, hr, hlen, hbytes⟩ := runInstrs_kclr_kpush bs s
    obtain ⟨k, l, rfl⟩ := runInstrs_kclr_kpush_withKey hr
    exact ⟨_, hr, hlen, hbytes, frame_withKey s k l⟩
  · obtain ⟨t, hr, hlen, hbytes⟩ := runInstrs_nclr_npush bs s
    obtain ⟨n, l, rfl⟩ := runInstrs_nclr_npush_withNonce hr
    exact ⟨_, hr, hlen, hbytes, frame_withNonce s n l⟩

/-! ### The arguments (R245 to R248) -/

/-- A packed word as a number (R100). -/
theorem packFields_toNat (op : Byte) (imm : Word) : (packFields op imm).toNat = op.toNat * 4294967296 + imm.toNat := by
  have hop := opField_toNat (packFields op imm)
  have himm := immField_toNat (packFields op imm)
  rw [pack_op] at hop
  rw [pack_imm] at himm
  omega

/-- `LEN[31:0]` as a remainder (R34). -/
theorem lenLow_toNat (l : BitVec 64) : (lenLow l).toNat = l.toNat % 4294967296 := BitVec.extractLsb'_toNat 0 32 l

/-- `LEN[63:32]` as a quotient (R34). -/
theorem lenHigh_toNat (l : BitVec 64) : (lenHigh l).toNat = l.toNat / 4294967296 := by
  rw [lenHigh, BitVec.extractLsb'_toNat, Nat.shiftRight_eq_div_pow]
  omega

theorem joinHalves_mod (high low : Word) : (joinHalves high low).toNat % 4294967296 = low.toNat := by
  rw [← lenLow_toNat, lenLow_joinHalves]

theorem joinHalves_div (high low : Word) : (joinHalves high low).toNat / 4294967296 = high.toNat := by
  rw [← lenHigh_toNat, lenHigh_joinHalves]

/-- The state with other arguments, and BUSY = 0: the commands of class word give no other. -/
def State.withArguments (s : State) (len : BitVec 64) (count modulus : Word) : State :=
  s.withInputs s.keyb s.nonb ⟨s.klen, s.nlen, len, count, modulus⟩

theorem frame_withArguments (s : State) (len : BitVec 64) (count modulus : Word) :
    SameKey s (s.withArguments len count modulus) ∧ SameNonce s (s.withArguments len count modulus) ∧
      SetupFrame s (s.withArguments len count modulus) :=
  ⟨⟨rfl, rfl⟩, ⟨rfl, rfl⟩, setupFrame_withInputs s _ _ _⟩

/-- Settles O12: the new LEN is put together from the half written and the half kept. -/
theorem lenHalvesWritten : Obligations.LenHalvesWritten := by
  refine fun s v => ⟨packFields_toNat 0x05#8 v, packFields_toNat 0x06#8 v, ?lenlo, ?lenhi⟩
  case lenlo =>
    exact ⟨s.withArguments (joinHalves (lenHigh s.len) v) s.count s.modulus, rfl, joinHalves_mod _ v,
      (joinHalves_div _ v).trans (lenHigh_toNat s.len), rfl, rfl, frame_withArguments s _ _ _⟩
  case lenhi =>
    exact ⟨s.withArguments (joinHalves v (lenLow s.len)) s.count s.modulus, rfl, joinHalves_div v _,
      (joinHalves_mod v _).trans (lenLow_toNat s.len), rfl, rfl, frame_withArguments s _ _ _⟩

/-- Settles O13: each stores its operand in its register, and LIMIT is among what no setup command writes. -/
theorem countAndModulusStored : Obligations.CountAndModulusStored := by
  refine fun s v => ⟨packFields_toNat 0x07#8 v, packFields_toNat 0x08#8 v, ?setcnt, ?setmod⟩
  case setcnt => exact ⟨s.withArguments s.len v s.modulus, rfl, rfl, rfl, rfl, frame_withArguments s _ _ _⟩
  case setmod => exact ⟨s.withArguments s.len s.count v, rfl, rfl, rfl, rfl, frame_withArguments s _ _ _⟩

end Sys2Proof.Machine
end

section
/-! The CMD and RD ports (spec/45_host_commands.md section 5) and what a call leaves for the host to read (R257, R281); and
the settling of O6, O54 and O58. -/

namespace Sys2Proof.Machine

/-- Settles O6: taking the word and setting BUSY is how a word is accepted. -/
theorem stepRunsDecodedCommand : Obligations.StepRunsDecodedCommand :=
  fun _ _ _ _ hw hbusy hd => step_command hw hbusy hd

/-! ### Transfers on the RD port while BUSY = 0 -/

/-- A CSR address is served. -/
theorem rdTransfer_csr {s : State} (hb : s.busy = false) {a : RdAddr} {v : Word} (h : csrAt s a.toNat = some v) :
    s.rdTransfer a = some ⟨true, v⟩ := by
  rw [State.rdTransfer, hb, rdReply, h]; rfl

/-- There is no CSR above 0x000F. -/
theorem csrAt_eq_none (s : State) {a : Nat} (h : 16 ≤ a) : csrAt s a = none := by
  obtain ⟨k, rfl⟩ := Nat.exists_eq_add_of_le' h
  rfl

/-- Above the CSRs only the RES window is left. -/
theorem rdTransfer_above {s : State} (hb : s.busy = false) {a : RdAddr} (ha : 16 ≤ a.toNat) :
    s.rdTransfer a = some (if 32768 ≤ a.toNat then resAt s (a.toNat - 32768) else .refusal) := by
  rw [State.rdTransfer, hb, rdReply, csrAt_eq_none s ha]; rfl

theorem resAt_refused {s : State} {i : Nat} (h : ¬ i < s.rcnt.toNat) : resAt s i = .refusal := if_neg h

theorem resAt_served {s : State} {i : Nat} {v : Word} (h : i < s.rcnt.toNat) (hv : Memory.read s.res i = some v) :
    resAt s i = ⟨true, v⟩ := by
  rw [resAt, if_pos h, hv]

/-- An address outside the CSRs and outside the results is refused. -/
theorem rdTransfer_refused {s : State} (hb : s.busy = false) {a : RdAddr} (ha : 16 ≤ a.toNat)
    (h : ¬ (32768 ≤ a.toNat ∧ a.toNat - 32768 < s.rcnt.toNat)) : s.rdTransfer a = some .refusal := by
  rw [rdTransfer_above hb ha]
  split
  · next hwin => rw [resAt_refused fun hi => h ⟨hwin, hi⟩]
  · rfl

/-- Between commands RES has an entry at every index below RCNT (R32, R61 (c)). -/
theorem ResultsHeld.exists_entry {s : State} (h : ResultsHeld s) {i : Nat} (hi : i < s.rcnt.toNat) :
    ∃ v, Memory.read s.res i = some v := by
  obtain ⟨vs, hres, hlen, -⟩ := h
  rw [hlen] at hi
  exact ⟨vs[i], by rw [hres, memory_read_fromList, List.getElem?_eq_getElem hi]⟩

/-- `LEN[31:0]` and `OUTLEN[31:0]` as the host reads them (R50). -/
theorem lenLow_eq_ofNat (l : BitVec 64) : lenLow l = BitVec.ofNat 32 (l.toNat % 4294967296) := by
  rw [← lenLow_toNat, BitVec.ofNat_toNat, BitVec.setWidth_eq]

/-- `LEN[63:32]` and `OUTLEN[63:32]` as the host reads them (R50). -/
theorem lenHigh_eq_ofNat (l : BitVec 64) : lenHigh l = BitVec.ofNat 32 (l.toNat / 4294967296) := by
  rw [← lenHigh_toNat, BitVec.ofNat_toNat, BitVec.setWidth_eq]

/-- Settles O58: the CSRs address by address; above them, the invariant says which entries RES has. -/
theorem readPortServes : Obligations.ReadPortServes := by
  intro s ⟨_, _, hres, _, ⟨hb, _⟩, _⟩
  refine ⟨?csrs, fun a ha => ⟨fun hwin hi => ?served, fun h => rdTransfer_refused hb ha h⟩⟩
  case csrs =>
    rw [← lenLow_eq_ofNat, ← lenHigh_eq_ofNat, ← lenLow_eq_ofNat, ← lenHigh_eq_ofNat, BitVec.ofNat_toNat,
      BitVec.ofNat_toNat]
    and_intros <;> exact rdTransfer_csr hb rfl
  case served =>
    obtain ⟨v, hv⟩ := hres.exists_entry hi
    exact ⟨v, hv, by rw [rdTransfer_above hb ha, if_pos hwin, resAt_served hi hv]⟩

/-! ### How a call ends (R257, R281) -/

/-- A call ends in one of two ways: by CALLOK, with the errors as CALLSTART cleared them, or by a raised error. -/
theorem exec_call_ends {i : Instr} {s t : State} (hc : isCallCommand i = true) (h : exec i s = .next t) :
    CallSucceeded s t ∨ ∃ e, ErrorRecorded e t := by
  cases i with
  | genbits =>
    rcases genbits_outcomes s with ⟨e, he, -⟩ | ⟨-, -, he⟩ <;> cases he.symm.trans h
    · exact .inr ⟨e, errorRecorded_raise e _⟩
    · exact .inl (callSucceeded_deliver _ _ s)
  | genwords =>
    rcases genwords_outcomes s with ⟨e, he, -⟩ | ⟨-, -, he⟩ <;> cases he.symm.trans h
    · exact .inr ⟨e, errorRecorded_raise e _⟩
    · exact .inl (callSucceeded_deliver _ _ s)
  | draw =>
    rcases draw_outcomes s with ⟨-, he⟩ | ⟨-, -, he⟩ | ⟨-, -, _, u, -, he, -, hf, -⟩ | ⟨-, -, u, he, -⟩ <;>
      cases he.symm.trans h
    · exact .inr ⟨_, errorRecorded_raise _ _⟩
    · exact .inr ⟨_, errorRecorded_raise _ _⟩
    · exact .inl ⟨rfl, rfl, hf.errCode, hf.errSub, hf.esticky⟩
    · exact .inr ⟨_, errorRecorded_raise _ u⟩
  | nop | kclr | kpush _ | nclr | npush _ | lenlo _ | lenhi _ | setcnt _ | setmod _ | srst => cases hc

/-- The codes of the errors a call raises are 1 to 4 (R277). -/
theorem callError_code_range (e : CallError) : 1 ≤ e.code.toNat ∧ e.code.toNat ≤ 4 := by
  rcases e with _ | _ | (_ | _) | _ <;> decide

/-- Without results every address above the CSRs is refused. -/
theorem rdTransfer_noResults {s : State} (hb : s.busy = false) (hr : s.rcnt = 0#32) {a : RdAddr} (ha : 16 ≤ a.toNat) :
    s.rdTransfer a = some ⟨false, 0#32⟩ :=
  rdTransfer_refused hb ha (by simp [hr])

/-- Settles O54, by the two ends of a call. -/
theorem noPartialResults : Obligations.NoPartialResults := by
  intro i s t hc h
  rcases exec_call_ends hc h with
    ⟨hdone, hbusy, hcode, hsub, -⟩ | ⟨e, hcode, -, hsticky, hout, houtLen, hrcnt, hdone, hbusy⟩
  · exact ⟨hbusy, .inl ⟨hdone, hcode, hsub⟩⟩
  · obtain ⟨hlow, hhigh⟩ := callError_code_range e
    rw [← hcode] at hlow hhigh
    exact ⟨hbusy, .inr ⟨hdone, hlow, hhigh, hsticky, hout, houtLen, hrcnt,
      fun _ ha => rdTransfer_noResults hbusy hrcnt ha⟩⟩

end Sys2Proof.Machine
end

section
/-! The exceptions of the calls (spec/60_exceptions.md): which error a keystream call raises and what it leaves (R280, R283),
and the life of ESTICKY (R286); and the settling of O33 and O55. -/

namespace Sys2Proof.Machine

/-! ### The errors of the keystream calls (R270, R271, R283) -/

/-- A key or nonce of the wrong length ends GENWORDS, whatever LEN is. -/
theorem genwords_invalid {s : State} (hv : inputsValid s = false) :
    exec .genwords s = .next (raise .invalidInputLength (callStart s)) :=
  if_pos hv

/-- With valid inputs, too long a request ends GENWORDS. -/
theorem genwords_tooLong {s : State} (hv : inputsValid s = true) (hl : 68719476720 < s.len.toNat) :
    exec .genwords s = .next (raise .counterExhausted (callStart s)) :=
  (if_neg (ne_false_of_eq_true hv)).trans (if_pos hl)

/-- An error raised right after CALLSTART leaves its record, and the inputs and counters as they were before the call. -/
theorem raise_callStart_leaves (e : CallError) (s : State) :
    ErrorRecorded e (raise e (callStart s)) ∧ CallFrame s (raise e (callStart s)) ∧
      SameCounters s (raise e (callStart s)) :=
  ⟨errorRecorded_raise e _, (callFrame_callStart s).trans (callFrame_raise e _), sameCounters_raise e (callStart s)⟩

/-- Settles O33: the lengths of the key and the nonce are checked before the length of the request, and both errors are
raised right after CALLSTART. -/
theorem keystreamCallErrors : Obligations.KeystreamCallErrors := by
  refine fun s => ⟨fun hbad => ?wrongLength, fun hgood => ?tooLong⟩
  case wrongLength =>
    have hv : inputsValid s = false := (inputsValid_false_iff s).2 hbad
    exact ⟨⟨_, genbits_invalid hv, raise_callStart_leaves _ s⟩, ⟨_, genwords_invalid hv, raise_callStart_leaves _ s⟩⟩
  case tooLong =>
    have hv : inputsValid s = true := (inputsValid_iff s).2 hgood
    exact ⟨fun hl => ⟨_, genbits_tooLong hv hl, raise_callStart_leaves _ s⟩,
      fun hl => ⟨_, genwords_tooLong hv hl, raise_callStart_leaves _ s⟩⟩

/-! ### ESTICKY (R286) -/

/-- A successful call leaves ESTICKY as it was; a failed one leaves it set. -/
theorem exec_call_esticky {i : Instr} {s t : State} (hc : isCallCommand i = true) (h : exec i s = .next t) :
    t.esticky = if t.done then s.esticky else true := by
  rcases exec_call_ends hc h with ⟨hdone, -, -, -, hsticky⟩ | ⟨_, -, -, hsticky, -, -, -, hdone, -⟩
  · rw [hdone, hsticky, if_pos rfl]
  · rw [hdone, hsticky, if_neg Bool.false_ne_true]

/-- No command but SRST clears ESTICKY. -/
theorem exec_keeps_esticky {i : Instr} {s t : State} (hr : i ≠ .srst) (h : exec i s = .next t)
    (hs : s.esticky = true) : t.esticky = true := by
  cases hc : isCallCommand i with
  | true => rw [exec_call_esticky hc h, hs, ite_self]
  | false =>
    obtain ⟨k, n, he, -⟩ := exec_setup hc hr s
    cases he.symm.trans h
    exact hs

/-- Settles O55: what the shared operations do to ESTICKY, and by the classes of the commands what `exec` does. -/
theorem stickyErrorFlag : Obligations.StickyErrorFlag := by
  refine ⟨fun e s => ?operations, fun i s t hc h => exec_call_esticky hc h, fun i s t h hs ht => ?onlySrst⟩
  case operations => exact ⟨raise_esticky e s, illegalCommand_esticky s, callStart_esticky s, resetCore_esticky s⟩
  case onlySrst =>
    by_contra hr
    exact Bool.false_ne_true (ht.symm.trans (exec_keeps_esticky hr h hs))

end Sys2Proof.Machine
end

section
/-! What the host reads after a reset (R311), and the settling of O17. -/

namespace Sys2Proof.Machine

/-- The configuration is not readable: the reset states of all configurations look the same (R55, R65). -/
theorem sameReadable_resetWith (c d : Config) : SameReadable (State.resetWith c) (State.resetWith d) :=
  ⟨rfl, rfl, ⟨rfl, rfl, rfl⟩, ⟨rfl, rfl, rfl, rfl, rfl, rfl⟩, ⟨rfl, rfl, rfl, rfl⟩, rfl, rfl, fun _ _ => rfl, rfl, rfl⟩

/-- A reset from any state looks like the machine right after reset: the free values it draws are not readable (R15, R249). -/
theorem sameReadable_reset_resetCore (s : State) : SameReadable State.reset (resetCore s) :=
  sameReadable_resetWith Config.standard s.cfg

/-- The sixteen CSRs of the reset state (R311). -/
theorem csrAt_reset : (List.range 16).map (csrAt State.reset) =
    [0, 0, 0, 0, 0, 0, 320, 1000, 0, 0, 0, 1, 0, 0, 0, 4294967000].map (fun n => some (BitVec.ofNat 32 n)) := by
  decide

/-- After reset RCNT is 0, so no address above the CSRs is served (R52, R311). -/
theorem rdTransfer_reset_refused {a : RdAddr} (ha : 16 ≤ a.toNat) : State.reset.rdTransfer a = some .refusal :=
  rdTransfer_refused rfl ha fun ⟨_, hi⟩ => Nat.not_lt_zero _ hi

/-- After reset OUT is empty (R65). -/
theorem outTransfer_reset (k : Nat) : State.reset.outTransfer k = none := rfl

/-- Settles O17: a state after either reset looks like `State.reset`, and the replies are functions of what is readable. -/
theorem resetAsTheHostReadsIt : Obligations.ResetAsTheHostReadsIt := by
  intro t ht
  have hsame : SameReadable State.reset t := by
    rcases ht with ⟨c, rfl⟩ | ⟨s, hs⟩
    · exact sameReadable_resetWith Config.standard c
    · cases hs
      exact sameReadable_reset_resetCore s
  refine ⟨?csrs, fun a ha => ?refused, fun k => ?out⟩
  case csrs => rw [csrAt_congr hsame, csrAt_reset]
  case refused => rw [rdTransfer_congr hsame, rdTransfer_reset_refused ha, RdReply.refusal]
  case out => rw [outTransfer_congr hsame, outTransfer_reset]

end Sys2Proof.Machine
end
